-- ==== Sys2Proof/Word.lean ====
section
/-! DEFINITION. The word types of the block: bytes and 32-bit words (00_scope.md R7). -/

namespace Sys2Proof

/-- A 32-bit value: every register, every command word, every bus datum (R7). -/
abbrev Word := BitVec 32

/-- One byte of a memory or of a byte sequence. -/
abbrev Byte := BitVec 8

end Sys2Proof
end

