-- ==== Sys2Proof/Config.lean ====
section
/-! DEFINITION. What one implementation fixes (the open parameters of 00_scope.md R8-R10) and the values the spec
leaves open for good (20_memory.md R94, R97), the latter as constants without a body. -/

namespace Sys2Proof

/-- The open parameters of one block (R8, R9, R10). They are carried in the state, never written, so that every statement
is about every block (log 1, DESIGN CHOICE). -/
structure Params where
  /-- BASE, the host address of offset 0 (R8). No behaviour depends on it. -/
  base : Nat
  /-- KEY_MEM_BYTES, the capacity of the key memory (R9). -/
  keyMemBytes : Nat
  /-- MSG_MEM_BYTES, the capacity of the message memory (R10). -/
  msgMemBytes : Nat
deriving DecidableEq, Repr

/-- The constraints R9 and R10 put on the capacities. -/
abbrev Params.WellFormed (p : Params) : Prop :=
  p.keyMemBytes % 4 = 0 ∧ 128 ≤ p.keyMemBytes ∧ p.keyMemBytes ≤ 4096 ∧
  p.msgMemBytes % 64 = 0 ∧ 128 ≤ p.msgMemBytes ∧ p.msgMemBytes ≤ 2 ^ 32 - 2 ^ 16

/-- The capacities the spec's test vectors use (92_eei_decisions.md D46), with BASE 0. DESIGN CHOICE (log 1). -/
def Params.testVectors : Params := { base := 0, keyMemBytes := 256, msgMemBytes := 4096 }

/-- The host address of an offset (R8, R81). The block itself sees offsets only. -/
def Params.hostAddress (p : Params) (offset : Nat) : Nat := p.base + offset

namespace Config

/-- The unspecified contents of message memory byte `addr` after the reset numbered `resets`, as long as nothing has
written it (R94: a draw). A free value (log 2). -/
opaque msgPowerUp : (resets addr : Nat) → Byte

/-- The unspecified contents of key memory byte `addr` after the reset numbered `resets` (R94). A free value (log 2). -/
opaque keyPowerUp : (resets addr : Nat) → Byte

/-- What the `draw`-th host read of an unspecified location while BUSY = 1 returns (R97: a draw per read). A free value
(log 3). -/
opaque busyRead : (draw : Nat) → Word

end Config

end Sys2Proof
end

