-- ==== Sys2Proof/Syntax.lean ====
section
/-! DEFINITION. The commands of SHA1-CMD version 1, one constructor per row of the opcode table (30_encoding.md R111). -/

namespace Sys2Proof

/-- A command (R111). ROUND carries its index as a natural number (R112); `Instr.WellFormed` says which indices a command
word can hold. -/
inductive Instr where
  /-- OP 0x00 (44_digest.md R181). -/
  | nop
  /-- OP 0x01 (44_digest.md R182). -/
  | clear
  /-- OP 0x02 (41_padding.md R152). -/
  | pad
  /-- OP 0x03 (44_digest.md R183). -/
  | init
  /-- OP 0x04 (44_digest.md R184). -/
  | block
  /-- OP 0x05 (44_digest.md R185). -/
  | final
  /-- OP 0x06 (42_schedule.md R161). -/
  | expand
  /-- OP 0x07 with RIDX = `ridx` (43_compression.md R172). -/
  | round (ridx : Nat)
  /-- OP 0x08 (43_compression.md R173). -/
  | compress
  /-- OP 0x09 (44_digest.md R186). -/
  | hash
  /-- OP 0x0A (45_hmac.md R200). -/
  | hmac
deriving DecidableEq, Repr

end Sys2Proof
end

