-- ==== Sys2Proof/WellFormed.lean ====
section
/-! DEFINITION. Which commands a command word can hold (30_encoding.md R112). -/

namespace Sys2Proof

/-- RIDX is an 8-bit field: values 0..79 name a round, 80..255 are legal encodings too (R112, R115). No other command has
an operand in its word. -/
abbrev Instr.WellFormed : Instr → Prop
  | .round ridx => ridx < 256
  | .nop => True
  | .clear => True
  | .pad => True
  | .init => True
  | .block => True
  | .final => True
  | .expand => True
  | .compress => True
  | .hash => True
  | .hmac => True

end Sys2Proof
end

