-- ==== Sys2Proof/Decode.lean ====
section
/-! DEFINITION. Decoding a command word (30_encoding.md R110-R115), total on all 2^32 words and rejecting by name, and the
encoder (R111, R120). -/

namespace Sys2Proof

/-- Why a word is no command. The engine reports every one of them as ILLEGAL_CMD (R114). -/
inductive Reject where
  /-- RSV, bits 31:16, is not 0 (R113). -/
  | reservedBits
  /-- OP is above 0x0A (R111, R115). -/
  | reservedOpcode
  /-- RIDX is not 0 on a command other than ROUND (R112). -/
  | strayIndex
deriving DecidableEq, Repr

/-- OP, bits 7:0 (R110). -/
def opField (w : Word) : Nat := (w.extractLsb' 0 8).toNat

/-- RIDX, bits 15:8 (R110, R112). -/
def ridxField (w : Word) : Nat := (w.extractLsb' 8 8).toNat

/-- RSV, bits 31:16 (R110, R113). -/
def rsvField (w : Word) : Nat := (w.extractLsb' 16 16).toNat

/-- The opcode of R111's table (OP 0x07 is ROUND's). -/
def opcodeOf : Instr → Nat
  | .nop => 0x00
  | .clear => 0x01
  | .pad => 0x02
  | .init => 0x03
  | .block => 0x04
  | .final => 0x05
  | .expand => 0x06
  | .round _ => 0x07
  | .compress => 0x08
  | .hash => 0x09
  | .hmac => 0x0A

/-- R111's table read from OP to command; none for the reserved OP values. -/
def instrOfOp (op ridx : Nat) : Option Instr :=
  match op with
  | 0x00 => some .nop
  | 0x01 => some .clear
  | 0x02 => some .pad
  | 0x03 => some .init
  | 0x04 => some .block
  | 0x05 => some .final
  | 0x06 => some .expand
  | 0x07 => some (.round ridx)
  | 0x08 => some .compress
  | 0x09 => some .hash
  | 0x0A => some .hmac
  | _ => none

/-- R114's decode, its checks in R114's order. -/
def decode (w : Word) : Except Reject Instr :=
  if rsvField w ≠ 0 then .error .reservedBits
  else match instrOfOp (opField w) (ridxField w) with
    | none => .error .reservedOpcode
    | some i => if opField w ≠ 0x07 ∧ ridxField w ≠ 0 then .error .strayIndex else .ok i

/-- The word of a command: `zext_32(i) << 8 | 0x07` for ROUND i, and OP for every other command (R120). -/
def encode : Instr → Word
  | .nop => 0x00000000#32
  | .clear => 0x00000001#32
  | .pad => 0x00000002#32
  | .init => 0x00000003#32
  | .block => 0x00000004#32
  | .final => 0x00000005#32
  | .expand => 0x00000006#32
  | .round ridx => BitVec.ofNat 32 ridx <<< 8 ||| 0x00000007#32
  | .compress => 0x00000008#32
  | .hash => 0x00000009#32
  | .hmac => 0x0000000A#32

/-- The word whose low `nbits` bits are those of `w`, all others 0. -/
def tableWord (nbits w : Nat) : Word := BitVec.ofNat 32 (w % 2 ^ nbits)

/-- What `decode` reads from an opcode-table word of `nbits` bits (a command is one 32-bit word, R110). -/
def decodeTableWord (nbits w : Nat) : Option Instr :=
  if w % 2 ^ nbits < 2 ^ 32 then (decode (tableWord nbits w)).toOption else none

end Sys2Proof
end

