-- ==== Sys2Proof/Machine/State.lean ====
section
/-! DEFINITION. The state of the block and of its surroundings (10_state.md), reset (70_reset_and_hazards.md R240-R243), and
the reasons a step can stop. -/

namespace Sys2Proof.Machine

/-- The DigestEngine phase (10_state.md R37). -/
inductive Phase where
  | empty
  | padded
  | processing
  | finalized
deriving DecidableEq, Repr

/-- The error codes (60_exceptions.md R210). Codes 6..15 are never produced, so they are no constructors (log 18). -/
inductive ErrCode where
  /-- 0: no error recorded since ERR was last cleared. -/
  | none
  /-- 1: raised at decode (30_encoding.md R114). -/
  | illegalCmd
  /-- 2: the command or write is not legal in the current PHASE, INPLACE or BLK_IDX. -/
  | sequence
  /-- 3: an operand length, offset or index lies outside its memory or range (R211). -/
  | range
  /-- 4: the padded message would not fit (R212). -/
  | capacity
  /-- 5: a write other than to STATUS and CTRL while BUSY = 1 (R213). -/
  | busy
deriving DecidableEq, Repr

/-- Five words: H[0..4], V[0..4] (host names A..E) or DG[0..4] (10_state.md R46, R47, R49). -/
structure Quint where
  w0 : Word
  w1 : Word
  w2 : Word
  w3 : Word
  w4 : Word
deriving DecidableEq, Repr

/-- A byte memory: the bytes written since reset, by strictly rising address. An unlisted byte is one nothing has written,
whatever value the spec's draw gives it (20_memory.md R94, log 2 and log 15). -/
abbrev Memory := List Host.Cell

/-- One bus operation of the host (30_encoding.md R121, R122; 20_memory.md R80). Offsets are 32-bit byte offsets from BASE
(00_scope.md R7). -/
inductive HostOp where
  /-- `wr <offset>, <value>`: one 32-bit write (R121). -/
  | wr (offset : Word) (value : Word)
  /-- `rd <offset>`: one 32-bit read (R121). -/
  | rd (offset : Word)
  /-- `wait`: read STATUS, and again while bit 0 of the value read is 1 (R122). -/
  | wait
  /-- A read or write of another width than 32 bits (R80). -/
  | subword (offset : Word)
deriving DecidableEq, Repr

/-- Who moves at a step (20_memory.md R95; the reset input, 70_reset_and_hazards.md R240). -/
inductive Turn where
  | host
  | engine
  | reset
deriving DecidableEq, Repr

/-- The state: the architectural and hidden state of the block, its parameters, and what the outside world will do. -/
structure State where
  /-- The open parameters of this block (00_scope.md R8-R10, log 1). -/
  params : Params
  /-- CMD, the last accepted command word (R32). -/
  cmd : Word
  /-- PEND, the hidden pending-command register; none when empty (R50). -/
  pend : Option Word
  /-- STATUS.BUSY (R33). -/
  busy : Bool
  /-- STATUS.DONE (R34). -/
  done : Bool
  /-- STATUS.ERR (R35). -/
  err : Bool
  /-- STATUS.INPLACE (R36). -/
  inplace : Bool
  /-- STATUS.PHASE (R37). -/
  phase : Phase
  /-- STATUS.ERR_CODE (R38). -/
  errCode : ErrCode
  /-- CTRL.IE_DONE (R40). -/
  ieDone : Bool
  /-- CTRL.IE_ERR (R40). -/
  ieErr : Bool
  /-- MSG_LEN (R41). -/
  msgLen : Word
  /-- KEY_LEN (R42). -/
  keyLen : Word
  /-- BLK_OFF (R43). -/
  blkOff : Word
  /-- BLK_IDX (R44). -/
  blkIdx : Word
  /-- ORIG_LEN (R45). -/
  origLen : Word
  /-- H[0..4], the state register file (R46). -/
  h : Quint
  /-- V[0..4], the working register file A..E (R47). -/
  v : Quint
  /-- W[0..79], the schedule register file (R48). -/
  w : Vector Word 80
  /-- DG[0..4], the digest register file (R49). -/
  dg : Quint
  /-- The written bytes of the key memory (20_memory.md R84). -/
  keyMem : Memory
  /-- The written bytes of the message memory (20_memory.md R85). -/
  msgMem : Memory
  /-- The model's own: how many resets there were; selects the contents of unwritten memory (R94, R243, log 2). -/
  resets : Nat
  /-- The model's own: how many unspecified reads there were; selects the value of the next one (R97, log 3). -/
  draws : Nat
  /-- The model's own: the host's bus operations still to come (30_encoding.md R121, log 4). -/
  script : List HostOp
  /-- The model's own: who moves at the next steps; once it is used up, the engine goes before the host (R95, log 4). -/
  schedule : List Turn
  /-- The model's own: what the host's reads returned, the latest first (20_memory.md R101, log 5). -/
  reads : List Word
deriving DecidableEq, Repr

/-- Reasons for which the machine stops. -/
inductive Fault where
  /-- Raised by the host's turn on a sub-word or misaligned access: 20_memory.md R80 and 60_exceptions.md R220 give it no
  meaning and ask for this fault. Safe. -/
  | hostProtocol
  /-- Raised by the engine's turn when BUSY = 1 and PEND is empty, which 10_state.md R54 rules out of every reachable state
  and lets a model check (log 6). Safe. -/
  | emptyPend
deriving DecidableEq, Repr

/-- Reasons for which the model gives a step no meaning. -/
inductive Refusal where
  /-- Raised by `exec` for a command without a meaning yet; no arm does so now. Safe. -/
  | notModelled (mnemonic : String)
  /-- Raised by the host's turn on an access beyond the block's span: it does not select this block, and what answers it is
  the platform's (20_memory.md R81, log 8). Safe. -/
  | outsideSpan
deriving DecidableEq, Repr

/-- Five zero words. -/
def Quint.zero : Quint := { w0 := 0, w1 := 0, w2 := 0, w3 := 0, w4 := 0 }

/-- The block with parameters `p` after its reset numbered `resets` (70_reset_and_hazards.md R240, R241): every register at
the value of R241's table, PEND empty, both memories unspecified, nothing for the host to do. -/
def State.resetOf (p : Params) (resets : Nat) : State where
  params := p
  cmd := 0x00000000#32
  pend := none
  busy := false
  done := false
  err := false
  inplace := false
  phase := .empty
  errCode := .none
  ieDone := false
  ieErr := false
  msgLen := 0x00000000#32
  keyLen := 0x00000000#32
  blkOff := 0x00000000#32
  blkIdx := 0x00000000#32
  origLen := 0x00000000#32
  h := .zero
  v := .zero
  w := Vector.replicate 80 0x00000000#32
  dg := .zero
  keyMem := []
  msgMem := []
  resets := resets
  draws := 0
  script := []
  schedule := []
  reads := []

/-- The machine right after reset, with the capacities of the spec's test vectors (log 1). -/
def State.reset : State := State.resetOf Params.testVectors 0

end Sys2Proof.Machine
end

