-- ==== Sys2Proof/Machine/Datapath.lean ====
section
/-! DEFINITION. The pure 32-bit functions the commands are built from (40_datapath.md), the schedule expansion
(42_schedule.md R160), the round and the compression (43_compression.md R170, R171), padding (41_padding.md R150), the
digest pass (44_digest.md R180) and the key derivation (45_hmac.md R201). -/

namespace Sys2Proof.Machine

/-- `add32` (R130): the sum modulo 2^32. -/
def add32 (x y : Word) : Word := x + y

/-- `rotl32` for 0 <= n <= 31 (R131). -/
def rotl32 (x : Word) (n : Nat) : Word := if n = 0 then x else x <<< n ||| x >>> (32 - n)

/-- `not32` (R132). -/
def not32 (x : Word) : Word := x ^^^ 0xFFFFFFFF#32

/-- The nonlinear function f, selected by the round index (R133). -/
def nonlinear (i : Fin 80) (b c d : Word) : Word :=
  if i.val < 20 then (b &&& c) ||| (not32 b &&& d)
  else if i.val < 40 then b ^^^ c ^^^ d
  else if i.val < 60 then (b &&& c) ||| (b &&& d) ||| (c &&& d)
  else b ^^^ c ^^^ d

/-- KC[0..3] (R135). PRESUMED: the spec takes the values from general knowledge (log 10). -/
def roundConstants : Vector Word 4 := #v[0x5A827999#32, 0x6ED9EBA1#32, 0x8F1BBCDC#32, 0xCA62C1D6#32]

/-- k(i) = KC[i div 20] (R134). -/
def roundConstant (i : Fin 80) : Word := roundConstants[i.val / 20]'(by omega)

/-- The IV (R136). PRESUMED: the spec takes the values from general knowledge (log 10). -/
def iv : Quint :=
  { w0 := 0x67452301#32, w1 := 0xEFCDAB89#32, w2 := 0x98BADCFE#32, w3 := 0x10325476#32, w4 := 0xC3D2E1F0#32 }

/-- `be32` of four bytes, the first the most significant (00_scope.md R14). -/
def be32 (b0 b1 b2 b3 : Byte) : Word := b0 ++ b1 ++ b2 ++ b3

/-- `bytes32`, the inverse of be32 (R14). -/
def bytes32 (x : Word) : List Byte :=
  [x.extractLsb' 24 8, x.extractLsb' 16 8, x.extractLsb' 8 8, x.extractLsb' 0 8]

/-- `bytes64` (R14), of a natural number below 2^64. -/
def bytes64 (n : Nat) : List Byte :=
  let x := BitVec.ofNat 64 n
  [x.extractLsb' 56 8, x.extractLsb' 48 8, x.extractLsb' 40 8, x.extractLsb' 32 8,
   x.extractLsb' 24 8, x.extractLsb' 16 8, x.extractLsb' 8 8, x.extractLsb' 0 8]

/-- The big-endian word of bytes 4j .. 4j+3 of a block (R160). Blocks have 64 bytes; the default is never used. -/
def blockWord (b : List Byte) (j : Nat) : Word :=
  be32 (b.getD (4 * j) 0) (b.getD (4 * j + 1) 0) (b.getD (4 * j + 2) 0) (b.getD (4 * j + 3) 0)

/-- The next schedule word from the words so far, the latest first, so that w[j-3] stands at place 2 (R160). -/
def nextScheduleWord (ws : List Word) : Word :=
  rotl32 (ws.getD 2 0 ^^^ ws.getD 7 0 ^^^ ws.getD 13 0 ^^^ ws.getD 15 0) 1

/-- `n` more schedule words, the latest first (R160). -/
def extendSchedule : Nat → List Word → List Word
  | 0, ws => ws
  | n + 1, ws => extendSchedule n (nextScheduleWord ws :: ws)

/-- The words 0..15 of a block, the latest first (R160). -/
def firstWords (b : List Byte) : List Word := ((List.range 16).map (blockWord b)).reverse

theorem extendSchedule_length (n : Nat) (ws : List Word) : (extendSchedule n ws).length = ws.length + n := by
  induction n generalizing ws with
  | zero => rfl
  | succ n ih => rw [extendSchedule, ih, List.length_cons]; omega

theorem firstWords_length (b : List Byte) : (firstWords b).length = 16 := by simp [firstWords]

/-- `expand(B)` (R160). -/
def expand (b : List Byte) : Vector Word 80 :=
  ⟨(extendSchedule 64 (firstWords b)).reverse.toArray, by simp [extendSchedule_length, firstWords_length]⟩

/-- `round(i, (a, b, c, d, e), x)` (R170). -/
def roundStep (i : Fin 80) (s : Quint) (x : Word) : Quint where
  w0 := add32 (add32 (add32 (add32 (rotl32 s.w0 5) (nonlinear i s.w1 s.w2 s.w3)) s.w4) (roundConstant i)) x
  w1 := s.w0
  w2 := rotl32 s.w1 30
  w3 := s.w2
  w4 := s.w3

/-- The 80 rounds of R171, in order, on the schedule `w`. -/
def rounds (w : Vector Word 80) (s : Quint) : Quint :=
  (List.finRange 80).foldl (fun q i => roundStep i q w[i]) s

/-- add32 of each of the five words (R171). -/
def Quint.add (x y : Quint) : Quint where
  w0 := add32 x.w0 y.w0
  w1 := add32 x.w1 y.w1
  w2 := add32 x.w2 y.w2
  w3 := add32 x.w3 y.w3
  w4 := add32 x.w4 y.w4

/-- `compress(h, w)`: the new state h' and the working values before the add (R171). -/
def compress (h : Quint) (w : Vector Word 80) : Quint × Quint :=
  let v := rounds w h
  (h.add v, v)

/-- `ser(h)`: the 20 bytes of five words (R180). -/
def ser (h : Quint) : List Byte :=
  bytes32 h.w0 ++ bytes32 h.w1 ++ bytes32 h.w2 ++ bytes32 h.w3 ++ bytes32 h.w4

/-- The number of zero bytes of the padding: (55 - L) mod 64, in the range 0..63 (R150). -/
def padZeros (len : Nat) : Nat := (55 + 64 - len % 64) % 64

/-- The padded length L + 9 + z (R151, R152). -/
def paddedLength (len : Nat) : Nat := len + 9 + padZeros len

/-- `pad(M)` (R150). -/
def padBytes (m : List Byte) : List Byte :=
  m ++ [0x80#8] ++ List.replicate (padZeros m.length) 0x00#8 ++ bytes64 (8 * m.length)

/-- What one block leaves in H, V and W (R180). -/
structure BlockResult where
  h : Quint
  v : Quint
  w : Vector Word 80
deriving DecidableEq, Repr

/-- Expand one block and compress it into `h` (R180, R184). -/
def hashBlock (h : Quint) (b : List Byte) : BlockResult :=
  let w := expand b
  let r := compress h w
  { h := r.1, v := r.2, w := w }

/-- The loop of `digestPass` over `n + 1` blocks of 64 bytes, in order (R180). -/
def hashBlocks : Nat → Quint → List Byte → BlockResult
  | 0, h, p => hashBlock h (p.take 64)
  | n + 1, h, p => hashBlocks n (hashBlock h (p.take 64)).h (p.drop 64)

/-- The block count |pad(S)| div 64 that `digestPass` returns (R180). -/
def blockCount (len : Nat) : Nat := paddedLength len / 64

/-- `digestPass(S)`: what it leaves in H, V and W (R180). A padded sequence has at least one block (R151). -/
def digestPass (bytes : List Byte) : BlockResult :=
  hashBlocks (blockCount bytes.length - 1) iv (padBytes bytes)

/-- `SHA1(S)` (R180). -/
def sha1 (bytes : List Byte) : List Byte := ser (digestPass bytes).h

/-- Step 1 of the key derivation: a key longer than 64 bytes is replaced by its digest (45_hmac.md R201). -/
def reduceKey (key : List Byte) : List Byte := if 64 < key.length then sha1 key else key

/-- `hmacKey(key)`: the 64-byte block key (R201). -/
def hmacKey (key : List Byte) : List Byte :=
  let k := reduceKey key
  if k.length < 64 then k ++ List.replicate (64 - k.length) 0x00#8 else k

/-- The bytewise xor of a key with a repeated mask byte (R202). -/
def maskKey (mask : Byte) (k0 : List Byte) : List Byte := k0.map (fun b => b ^^^ mask)

/-- The input of the inner pass, `ik || message` (R200, R202). -/
def innerInput (key msg : List Byte) : List Byte := maskKey 0x36#8 (hmacKey key) ++ msg

/-- The input of the outer pass, `ok || inner` (R200, R202). -/
def outerInput (key msg : List Byte) : List Byte := maskKey 0x5C#8 (hmacKey key) ++ sha1 (innerInput key msg)

end Sys2Proof.Machine
end

