-- ==== Sys2Proof/Machine/Flags.lean ====
section
/-! DEFINITION. STATUS, CTRL and IRQ: the words a read builds, the write-one-to-clear rules, the error recording rule
(10_state.md R33-R40, R55; 60_exceptions.md R210, R213). -/

namespace Sys2Proof.Machine

/-- The encoding of PHASE (R37). -/
def phaseCode : Phase → BitVec 2
  | .empty => 0
  | .padded => 1
  | .processing => 2
  | .finalized => 3

/-- The values of ERR_CODE (R210). -/
def errCodeValue : ErrCode → BitVec 4
  | .none => 0
  | .illegalCmd => 1
  | .sequence => 2
  | .range => 3
  | .capacity => 4
  | .busy => 5

/-- The STATUS word: bits 31:12 and 7:6 reserved and 0, ERR_CODE 11:8, PHASE 5:4, INPLACE 3, ERR 2, DONE 1, BUSY 0
(R33-R39). -/
def State.statusWord (s : State) : Word :=
  0#20 ++ errCodeValue s.errCode ++ 0#2 ++ phaseCode s.phase ++ BitVec.ofBool s.inplace ++ BitVec.ofBool s.err ++
    BitVec.ofBool s.done ++ BitVec.ofBool s.busy

/-- The CTRL word: bits 31:2 reserved and 0, IE_ERR 1, IE_DONE 0 (R40). -/
def State.ctrlWord (s : State) : Word := 0#30 ++ BitVec.ofBool s.ieErr ++ BitVec.ofBool s.ieDone

/-- The level interrupt output (R55). -/
def State.irq (s : State) : Bool := (s.done && s.ieDone) || (s.err && s.ieErr)

/-- The recording rule `if ERR = 0 then (ERR <- 1; ERR_CODE <- code)` (R213, R214, R38). -/
def State.recordError (c : ErrCode) (s : State) : State :=
  { s with err := true, errCode := if s.err then s.errCode else c }

/-- A host write of STATUS: bit 1 clears DONE, bit 2 clears ERR and ERR_CODE, every other bit is ignored (R34, R35,
R39). -/
def State.writeStatus (x : Word) (s : State) : State :=
  { s with
    done := s.done && !x.getLsbD 1
    err := s.err && !x.getLsbD 2
    errCode := if x.getLsbD 2 then .none else s.errCode }

/-- A host write of CTRL: bits 31:2 are ignored (R40). -/
def State.writeCtrl (x : Word) (s : State) : State :=
  { s with ieDone := x.getLsbD 0, ieErr := x.getLsbD 1 }

end Sys2Proof.Machine
end

