-- ==== Sys2Proof/Machine/Operands.lean ====
section
/-! DEFINITION. Where operands stand: the register map (10_state.md R30), the words of a register file, and the byte
memories (20_memory.md R83-R86). -/

namespace Sys2Proof.Machine

/-- A location of the register map (R30). Window locations carry the byte address in their memory. -/
inductive Loc where
  | id
  | cmd
  | status
  | ctrl
  | msgLen
  | keyLen
  | blkOff
  | blkIdx
  | origLen
  | h (k : Fin 5)
  | v (k : Fin 5)
  | dg (k : Fin 5)
  | w (j : Fin 80)
  | key (addr : Nat)
  | msg (addr : Nat)
  | unmapped
deriving DecidableEq, Repr

/-- The block's span: offsets 0 .. 0x10000 + MSG_MEM_BYTES - 1 (R30). -/
def spanBytes (p : Params) : Nat := 0x10000 + p.msgMemBytes

/-- The single registers of the map, by word index offset / 4 (R30). -/
def scalarLoc : Nat → Loc
  | 0 => .id
  | 1 => .cmd
  | 2 => .status
  | 3 => .ctrl
  | 4 => .msgLen
  | 5 => .keyLen
  | 6 => .blkOff
  | 7 => .blkIdx
  | 8 => .origLen
  | _ => .unmapped

/-- The register map (R30): what a byte offset inside the span, a multiple of 4, names. -/
def locOf (p : Params) (off : Nat) : Loc :=
  if off < 0x040 then scalarLoc (off / 4)
  else if off < 0x054 then .h (Fin.ofNat 5 ((off - 0x040) / 4))
  else if 0x060 ≤ off ∧ off < 0x074 then .v (Fin.ofNat 5 ((off - 0x060) / 4))
  else if 0x080 ≤ off ∧ off < 0x094 then .dg (Fin.ofNat 5 ((off - 0x080) / 4))
  else if 0x100 ≤ off ∧ off < 0x240 then .w (Fin.ofNat 80 ((off - 0x100) / 4))
  else if 0x1000 ≤ off ∧ off < 0x1000 + p.keyMemBytes then .key (off - 0x1000)
  else if 0x10000 ≤ off ∧ off < 0x10000 + p.msgMemBytes then .msg (off - 0x10000)
  else .unmapped

/-- Word k of a register file of five. -/
def Quint.get (q : Quint) (k : Fin 5) : Word :=
  match k with
  | 0 => q.w0
  | 1 => q.w1
  | 2 => q.w2
  | 3 => q.w3
  | 4 => q.w4

/-- The register file with word k replaced. -/
def Quint.set (q : Quint) (k : Fin 5) (x : Word) : Quint :=
  match k with
  | 0 => { q with w0 := x }
  | 1 => { q with w1 := x }
  | 2 => { q with w2 := x }
  | 3 => { q with w3 := x }
  | 4 => { q with w4 := x }

/-- The canonical form of a memory: addresses strictly rising. What an unlisted address reads as is 'nothing written',
which no entry can say, so the second half of the form holds of every list (log 15). -/
def Memory.wf : Memory → Bool
  | [] => true
  | [_] => true
  | (a, _) :: (a', b') :: m => decide (a < a') && Memory.wf ((a', b') :: m)

/-- Every listed address lies inside a memory of `cap` bytes (R83). -/
def Memory.within (cap : Nat) (m : Memory) : Bool := m.all (fun c => decide (c.1 < cap))

/-- The byte written at an address, if one was. -/
def Memory.read : Memory → Nat → Option Byte
  | [], _ => none
  | (a', b') :: m, a => if a = a' then some b' else Memory.read m a

/-- The memory with one byte written, in canonical form. -/
def Memory.write : Memory → Nat → Byte → Memory
  | [], a, b => [(a, b)]
  | (a', b') :: m, a, b =>
    if a < a' then (a, b) :: (a', b') :: m
    else if a = a' then (a, b) :: m
    else (a', b') :: Memory.write m a b

/-- The memory with a byte sequence written from an address on. -/
def Memory.writeBytes : Memory → Nat → List Byte → Memory
  | m, _, [] => m
  | m, a, b :: bs => Memory.writeBytes (Memory.write m a b) (a + 1) bs

end Sys2Proof.Machine
end

