-- ==== Sys2Proof/Machine/Ops.lean ====
section
/-! DEFINITION. The operations every meaning is built from: the memory primitives (00_scope.md R14), issue and completion
of a command (20_memory.md R95), and ERRORS: raising one and completing with it (R15, 60_exceptions.md R214), and the
host's acknowledgement of it (R218). -/

namespace Sys2Proof.Machine

/-- The outcome type of a step of this machine. -/
abbrev Result := Host.Outcome State Fault Refusal

/-- Message memory byte `addr`: the written byte, or else the unspecified contents since reset (20_memory.md R85, R94,
log 2). -/
def State.msgByte (s : State) (addr : Nat) : Byte := (s.msgMem.read addr).getD (Config.msgPowerUp s.resets addr)

/-- Key memory byte `addr` (R84, R94, log 2). -/
def State.keyByte (s : State) (addr : Nat) : Byte := (s.keyMem.read addr).getD (Config.keyPowerUp s.resets addr)

/-- `MemRead(addr, n)` (R14). -/
def State.memRead (s : State) (addr n : Nat) : List Byte := (List.range n).map (fun i => s.msgByte (addr + i))

/-- `KeyRead(addr, n)` (R14). -/
def State.keyRead (s : State) (addr n : Nat) : List Byte := (List.range n).map (fun i => s.keyByte (addr + i))

/-- `MemWrite(addr, |bytes|, bytes)` (R14). -/
def State.memWrite (addr : Nat) (bytes : List Byte) (s : State) : State :=
  { s with msgMem := s.msgMem.writeBytes addr bytes }

/-- The same on the key memory: only the host writes it (R84). -/
def State.keyWrite (addr : Nat) (bytes : List Byte) (s : State) : State :=
  { s with keyMem := s.keyMem.writeBytes addr bytes }

/-- The word a host reads at a window address of the message memory (20_memory.md R86). -/
def State.msgWindowWord (s : State) (addr : Nat) : Word :=
  be32 (s.msgByte addr) (s.msgByte (addr + 1)) (s.msgByte (addr + 2)) (s.msgByte (addr + 3))

/-- The word a host reads at a window address of the key memory (R86). -/
def State.keyWindowWord (s : State) (addr : Nat) : Word :=
  be32 (s.keyByte addr) (s.keyByte (addr + 1)) (s.keyByte (addr + 2)) (s.keyByte (addr + 3))

/-- The issue of a command: `PEND <- word; BUSY <- 1; DONE <- 0`, and CMD keeps the word (R95, 10_state.md R32). -/
def State.issue (word : Word) (s : State) : State :=
  { s with cmd := word, pend := some word, busy := true, done := false }

/-- `complete(outcome)` without its error half: `BUSY <- 0; DONE <- 1; PEND <- empty` (R214). -/
def State.complete (s : State) : State := { s with busy := false, done := true, pend := none }

/-- TAKING AN ERROR: `complete(CmdError(code))` on the state before the command, all else unchanged (R15, R214). -/
def State.fail (c : ErrCode) (s : State) : State := (s.recordError c).complete

/-- The end of every command: its writes and the completion state on success, the completion state alone on
`raise CmdError(code)` (R15, R95, R214). -/
def finish (s : State) (r : Except ErrCode State) : Result :=
  match r with
  | .ok t => .next t.complete
  | .error c => .next (s.fail c)

/-- THE RETURN FROM AN ERROR: there is no return command; the host acknowledges with a STATUS write whose bit 2 is 1
(R218, R35). -/
def State.acknowledgeError (s : State) : State := s.writeStatus 0x00000004#32

/-- BLOCK's end: what the block leaves in H, V and W, and BLK_IDX <- BLK_IDX + 1 (44_digest.md R184). -/
def State.advanceWith (r : BlockResult) (s : State) : State :=
  { s with h := r.h, v := r.v, w := r.w, blkIdx := s.blkIdx + 1 }

/-- The end of HASH and HMAC: the last pass's registers, DG <- H, BLK_IDX <- n, PHASE <- FINALIZED (44_digest.md R186,
45_hmac.md R200). -/
def State.finalizeWith (r : BlockResult) (n : Nat) (s : State) : State :=
  { s with h := r.h, v := r.v, w := r.w, dg := r.h, blkIdx := BitVec.ofNat 32 n, phase := .finalized }

end Sys2Proof.Machine
end

