-- ==== Sys2Proof/Machine/Bus.lean ====
section
/-! DEFINITION. The host's bus operations (20_memory.md R80-R97, 10_state.md R30-R56, 60_exceptions.md R213), the reset
input (70_reset_and_hazards.md R240-R243), and whose turn it is (20_memory.md R95). -/

namespace Sys2Proof.Machine

/-- The true value of a location (R30-R49, R56; the windows R86). -/
def State.readLoc (s : State) : Loc → Word
  | .id => 0x53484131#32
  | .cmd => s.cmd
  | .status => s.statusWord
  | .ctrl => s.ctrlWord
  | .msgLen => s.msgLen
  | .keyLen => s.keyLen
  | .blkOff => s.blkOff
  | .blkIdx => s.blkIdx
  | .origLen => s.origLen
  | .h k => s.h.get k
  | .v k => s.v.get k
  | .dg k => s.dg.get k
  | .w j => s.w[j]
  | .key addr => s.keyWindowWord addr
  | .msg addr => s.msgWindowWord addr
  | .unmapped => 0x00000000#32

/-- The locations whose reads return unspecified values while BUSY = 1 (R97). -/
def Loc.unspecifiedWhileBusy : Loc → Bool
  | .msgLen | .blkIdx | .origLen | .h _ | .v _ | .dg _ | .w _ | .msg _ => true
  | .id | .cmd | .status | .ctrl | .keyLen | .blkOff | .key _ | .unmapped => false

/-- The locations whose writes are refused while BUSY = 1 (R91, R213). -/
def Loc.refusedWhileBusy : Loc → Bool
  | .cmd | .msgLen | .keyLen | .blkOff | .h _ | .v _ | .w _ | .key _ | .msg _ => true
  | .id | .status | .ctrl | .blkIdx | .origLen | .dg _ | .unmapped => false

/-- A write that is neither refused for BUSY nor ignored: what it stores (R32, R34, R35, R40-R48, R86), the SEQUENCE refusal
of MSG_LEN while INPLACE = 1 (R41, R213) included. -/
def State.storeLoc (l : Loc) (x : Word) (s : State) : State :=
  match l with
  | .cmd => s.issue x
  | .status => s.writeStatus x
  | .ctrl => s.writeCtrl x
  | .msgLen => if s.inplace then s.recordError .sequence else { s with msgLen := x }
  | .keyLen => { s with keyLen := x }
  | .blkOff => { s with blkOff := x }
  | .h k => { s with h := s.h.set k x }
  | .v k => { s with v := s.v.set k x }
  | .w j => { s with w := s.w.set j x }
  | .key addr => s.keyWrite addr (bytes32 x)
  | .msg addr => s.memWrite addr (bytes32 x)
  | .id => s
  | .blkIdx => s
  | .origLen => s
  | .dg _ => s
  | .unmapped => s

/-- A host write of a location (R91, R213). -/
def State.writeLoc (l : Loc) (x : Word) (s : State) : State :=
  if s.busy && l.refusedWhileBusy then s.recordError .busy else s.storeLoc l x

/-- The host gets a value back (R101, log 5). -/
def State.answer (x : Word) (s : State) : State := { s with reads := x :: s.reads }

/-- The host gets a draw (R97, log 3): the next one will be another. -/
def State.answerDraw (x : Word) (s : State) : State := { s with reads := x :: s.reads, draws := s.draws + 1 }

/-- A host read of a location: its true value, or a draw (R56, R97, log 3). Reads have no other effect (R90). -/
def State.hostRead (l : Loc) (s : State) : State :=
  if s.busy && l.unspecifiedWhileBusy then s.answerDraw (Config.busyRead s.draws) else s.answer (s.readLoc l)

/-- An access at an offset: misaligned ones are the host's fault (R80), ones beyond the span do not select the block
(R81, log 8), the rest are the location's (R30). -/
def access (s : State) (offset : Word) (act : Loc → State) : Result :=
  if offset.toNat % 4 ≠ 0 then .fault .hostProtocol
  else if spanBytes s.params ≤ offset.toNat then .refused .outsideSpan
  else .next (act (locOf s.params offset.toNat))

/-- The host is done with the first operation of its script. -/
def State.dropOp (s : State) : State := { s with script := s.script.tail }

/-- `wait`: read STATUS; the host is done with it when bit 0 of the value read is 0 (30_encoding.md R122, log 17). -/
def State.poll (s : State) : State :=
  let t := s.hostRead .status
  if s.statusWord.getLsbD 0 then t else t.dropOp

/-- The host's turn: the first operation of its script, if there is one (R82). -/
def hostStep (s : State) : Result :=
  match s.script with
  | [] => .next s
  | .wr offset x :: _ => access s offset (fun l => (s.writeLoc l x).dropOp)
  | .rd offset :: _ => access s offset (fun l => (s.hostRead l).dropOp)
  | .wait :: _ => .next s.poll
  | .subword _ :: _ => .fault .hostProtocol

/-- What a reset of the block leaves as it was in `old`: the host's side and the model's count of draws (log 11). -/
def State.keepingHostOf (s old : State) : State :=
  { s with draws := old.draws, script := old.script, schedule := old.schedule, reads := old.reads }

/-- The reset input is asserted: every register at its reset value, a pending command abandoned, both memories unspecified
afresh; the outside world (parameters, script, schedule, what the host has read) stays (R240, R243, R94, log 11). -/
def State.assertReset (s : State) : State := (State.resetOf s.params (s.resets + 1)).keepingHostOf s

/-- Whose turn it is: the schedule's, and once that is used up the engine's while a command is pending, else the host's
while it has operations left (R95, R255, log 4). None: the block is idle (60_exceptions.md R228). -/
def State.turn (s : State) : Option Turn :=
  match s.schedule with
  | t :: _ => some t
  | [] => if s.busy then some .engine else if s.script.isEmpty then none else some .host

/-- The turn is taken. -/
def State.dropTurn (s : State) : State := { s with schedule := s.schedule.tail }

end Sys2Proof.Machine
end

