-- ==== Sys2Proof/Machine/Compression.lean ====
section
/-! DEFINITION. ROUND and COMPRESS (43_compression.md R172, R173). -/

namespace Sys2Proof.Machine

/-- ROUND i: one round on V with W[i]; RANGE for i >= 80 (R172). -/
def execRound (ridx : Nat) (s : State) : Result :=
  finish s <|
    if h : ridx < 80 then .ok { s with v := roundStep ⟨ridx, h⟩ s.v s.w[ridx] }
    else .error .range

/-- COMPRESS: the schedule in W compressed into H; V keeps the working values (R173). -/
def execCompress (s : State) : Result :=
  finish s (.ok { s with h := (compress s.h s.w).1, v := (compress s.h s.w).2 })

end Sys2Proof.Machine
end

