-- ==== Sys2Proof/Machine/Digest.lean ====
section
/-! DEFINITION. NOP, CLEAR, INIT, BLOCK, FINAL and HASH (44_digest.md R181-R186). -/

namespace Sys2Proof.Machine

/-- NOP: nothing but completion (R181). -/
def execNop (s : State) : Result := finish s (.ok s)

/-- CLEAR: back to EMPTY; MSG_LEN restored when the message memory holds a padded form (R182). -/
def execClear (s : State) : Result :=
  finish s (.ok { s with
    msgLen := if s.inplace then s.origLen else s.msgLen
    inplace := false
    phase := .empty
    blkIdx := 0x00000000#32 })

/-- INIT: the IV into H (R183). -/
def execInit (s : State) : Result :=
  finish s <|
    if s.phase ≠ .padded then .error .sequence
    else .ok { s with h := iv, blkIdx := 0x00000000#32, phase := .processing }

/-- BLOCK: the next 64-byte block of the padded message (R184). -/
def execBlock (s : State) : Result :=
  finish s <|
    if s.phase ≠ .processing then .error .sequence
    else if s.msgLen.toNat / 64 ≤ s.blkIdx.toNat then .error .sequence
    else .ok (s.advanceWith (hashBlock s.h (s.memRead (64 * s.blkIdx.toNat) 64)))

/-- FINAL: H into the digest registers after the last block (R185). -/
def execFinal (s : State) : Result :=
  finish s <|
    if s.phase ≠ .processing then .error .sequence
    else if s.blkIdx.toNat ≠ s.msgLen.toNat / 64 then .error .sequence
    else .ok { s with dg := s.h, phase := .finalized }

/-- HASH: the digest of the message, padded in a private view (R186). -/
def execHash (s : State) : Result :=
  finish s <|
    if s.inplace then .error .sequence
    else if s.params.msgMemBytes < s.msgLen.toNat then .error .range
    else .ok (s.finalizeWith (digestPass (s.memRead 0 s.msgLen.toNat)) (blockCount s.msgLen.toNat))

end Sys2Proof.Machine
end

