-- ==== Sys2Proof/Machine/Hmac.lean ====
section
/-! DEFINITION. HMAC (45_hmac.md R200-R202). -/

namespace Sys2Proof.Machine

/-- What the outer pass leaves in H, V and W (R200). The passes before it are overwritten by it, since every pass starts
from the IV and compresses at least one block (R201, 10_state.md R51). -/
def State.hmacPass (s : State) : BlockResult :=
  digestPass (outerInput (s.keyRead 0 s.keyLen.toNat) (s.memRead 0 s.msgLen.toNat))

/-- HMAC: the tag of the message under the key (R200). -/
def execHmac (s : State) : Result :=
  finish s <|
    if s.inplace then .error .sequence
    else if s.params.msgMemBytes < s.msgLen.toNat ∨ s.params.keyMemBytes < s.keyLen.toNat then .error .range
    else .ok (s.finalizeWith s.hmacPass
      (blockCount (outerInput (s.keyRead 0 s.keyLen.toNat) (s.memRead 0 s.msgLen.toNat)).length))

end Sys2Proof.Machine
end

