-- ==== Sys2Proof/Machine/Padding.lean ====
section
/-! DEFINITION. PAD (41_padding.md R152). -/

namespace Sys2Proof.Machine

/-- PAD's three MemWrites after a message of `len` bytes (R152). -/
def State.storePadding (len : Nat) (s : State) : State :=
  ((s.memWrite len [0x80#8]).memWrite (len + 1) (List.replicate (padZeros len) 0x00#8)).memWrite
    (len + 1 + padZeros len) (bytes64 (8 * len))

/-- PAD's register writes for a message of length register `len` (R152). -/
def State.enterPadded (len : Word) (s : State) : State :=
  { s with
    origLen := len
    msgLen := BitVec.ofNat 32 (paddedLength len.toNat)
    blkIdx := 0x00000000#32
    inplace := true
    phase := .padded }

/-- PAD's effect on success (R152). -/
def State.padInPlace (s : State) : State := (s.storePadding s.msgLen.toNat).enterPadded s.msgLen

/-- PAD: its checks in order, then its writes (R152, R211, R212). -/
def execPad (s : State) : Result :=
  finish s <|
    if s.phase ≠ .empty then .error .sequence
    else if s.params.msgMemBytes < s.msgLen.toNat then .error .range
    else if s.params.msgMemBytes < paddedLength s.msgLen.toNat then .error .capacity
    else .ok s.padInPlace

end Sys2Proof.Machine
end

