-- ==== Sys2Proof/Machine/Schedule.lean ====
section
/-! DEFINITION. EXPAND (42_schedule.md R161). -/

namespace Sys2Proof.Machine

/-- EXPAND: the 64-byte block at BLK_OFF expanded into W; RANGE when BLK_OFF + 64 > MSG_MEM_BYTES (R161, R211). -/
def execExpand (s : State) : Result :=
  finish s <|
    if s.params.msgMemBytes < s.blkOff.toNat + 64 then .error .range
    else .ok { s with w := expand (s.memRead s.blkOff.toNat 64) }

end Sys2Proof.Machine
end

