-- ==== Sys2Proof/Machine/Engine.lean ====
section
/-! DEFINITION. The engine's turn: decode PEND and perform it (20_memory.md R95, 30_encoding.md R114), and placing a command
where the engine takes its next one. -/

namespace Sys2Proof.Machine

/-- Perform a command word: ILLEGAL_CMD when it is none, else the command (R114, R214). -/
def performWord (word : Word) (s : State) : Result :=
  match decode word with
  | .ok i => exec i s
  | .error _ => .next (s.fail .illegalCmd)

/-- The engine's turn: enabled only when BUSY = 1, it performs the command in PEND (R95). -/
def engineStep (s : State) : Result :=
  if s.busy then
    match s.pend with
    | some word => performWord word s
    | none => .fault .emptyPend
  else .next s

/-- A command word issued, as an accepted CMD write issues it, and the engine to move next (R95, log 9). -/
def State.withCommand (word : Word) (s : State) : State :=
  { s with cmd := word, pend := some word, busy := true, done := false, schedule := .engine :: s.schedule }

end Sys2Proof.Machine
end

