-- ==== Sys2Proof/Machine/Step.lean ====
section
/-! DEFINITION. One step: a host access, the performance of one command, a reset, or nothing when the block is idle
(20_memory.md R95, 60_exceptions.md R228). -/

namespace Sys2Proof.Machine

/-- One step of the agent whose turn it is (R95). -/
def step (s : State) : Host.Outcome State Fault Refusal :=
  match s.turn with
  | none => .next s
  | some .host => hostStep s.dropTurn
  | some .engine => engineStep s.dropTurn
  | some .reset => .next s.dropTurn.assertReset

/-- `s` with an opcode-table word issued as the command the engine performs at the very next step (log 9). -/
def State.withFetchWord (s : State) (nbits w : Nat) : State := s.withCommand (tableWord nbits w)

end Sys2Proof.Machine
end

