-- ==== Sys2Proof/Machine/Script.lean ====
section
/-! DEFINITION. Host scripts (30_encoding.md R120-R125): the location names and the pseudo-instructions, as lists of bus
operations. -/

namespace Sys2Proof.Machine

/-- The offset a location's name stands for (10_state.md R30, 30_encoding.md R121). -/
def Loc.offset : Loc → Nat
  | .id => 0x000
  | .cmd => 0x004
  | .status => 0x008
  | .ctrl => 0x00C
  | .msgLen => 0x010
  | .keyLen => 0x014
  | .blkOff => 0x018
  | .blkIdx => 0x01C
  | .origLen => 0x020
  | .h k => 0x040 + 4 * k.val
  | .v k => 0x060 + 4 * k.val
  | .dg k => 0x080 + 4 * k.val
  | .w j => 0x100 + 4 * j.val
  | .key addr => 0x1000 + addr
  | .msg addr => 0x10000 + addr
  | .unmapped => 0x024

/-- `wr <loc>, <value>` (R121). -/
def wrLoc (l : Loc) (x : Word) : HostOp := .wr (BitVec.ofNat 32 l.offset) x

/-- `rd <loc>` (R121). -/
def rdLoc (l : Loc) : HostOp := .rd (BitVec.ofNat 32 l.offset)

/-- `cmd <MNEMONIC> [i]` (R122). -/
def cmdOps (i : Instr) : List HostOp := [wrLoc .cmd (encode i)]

/-- `run <MNEMONIC> [i]` (R122). -/
def runOps (i : Instr) : List HostOp := cmdOps i ++ [.wait]

/-- `clrst` (R122). -/
def clrstOps : List HostOp := [wrLoc .status 0x00000006#32]

/-- The window writes of `wrmsg` and `wrkey`: word k is be32 of bytes 4k .. 4k+3, bytes beyond the end taken as 0x00
(R122). -/
def windowOps (at_ : Nat → Loc) (bytes : List Byte) : List HostOp :=
  (List.range ((bytes.length + 3) / 4)).map fun k =>
    wrLoc (at_ (4 * k)) (bytes.getD (4 * k) 0 ++ bytes.getD (4 * k + 1) 0 ++ bytes.getD (4 * k + 2) 0 ++
      bytes.getD (4 * k + 3) 0)

/-- `wrmsg <bytes>` (R122). -/
def wrmsgOps (bytes : List Byte) : List HostOp :=
  windowOps .msg bytes ++ [wrLoc .msgLen (BitVec.ofNat 32 bytes.length)]

/-- `wrkey <bytes>` (R122). -/
def wrkeyOps (bytes : List Byte) : List HostOp :=
  windowOps .key bytes ++ [wrLoc .keyLen (BitVec.ofNat 32 bytes.length)]

end Sys2Proof.Machine
end

