-- ==== Sys2Proof/Safety.lean ====
section
/-! DEFINITION. The terms claims use: the invariants of 10_state.md R54, the completion state of 60_exceptions.md R214 written
out, what stays the same, and sequences of commands. -/

namespace Sys2Proof.Machine

/-- The invariants: R54 (a) to (f), with the capacity constraints of 00_scope.md R9 and R10, that a pending command is the
word CMD shows (10_state.md R32, R50), that a recorded error has a code (R38), and the canonical form of both memories. -/
structure State.Inv (s : State) : Prop where
  /-- R9, R10. -/
  params_wf : s.params.WellFormed
  /-- R54 (a). -/
  empty_not_inplace : s.phase = .empty → s.inplace = false
  /-- R54 (b). -/
  sequencing_inplace : s.phase = .padded ∨ s.phase = .processing → s.inplace = true
  /-- R54 (c). -/
  inplace_lengths : s.inplace = true →
    s.msgLen.toNat % 64 = 0 ∧ s.msgLen.toNat ≤ s.params.msgMemBytes ∧ s.origLen.toNat < s.msgLen.toNat
  /-- R54 (d). -/
  processing_index : s.phase = .processing → s.blkIdx.toNat ≤ s.msgLen.toNat / 64
  /-- R54 (e), and the converse (R38). -/
  err_iff_code : s.err = false ↔ s.errCode = .none
  /-- R54 (f). -/
  idle_pend_empty : s.busy = false → s.pend = none
  /-- While a command is pending, PEND holds the word CMD shows (R32, R50). DEDUCED (log 6). -/
  busy_pend_cmd : s.busy = true → s.pend = some s.cmd
  /-- The message memory is in canonical form and inside its capacity. -/
  msgMem_wf : s.msgMem.wf = true ∧ s.msgMem.within s.params.msgMemBytes = true
  /-- The key memory is in canonical form and inside its capacity. -/
  keyMem_wf : s.keyMem.wf = true ∧ s.keyMem.within s.params.keyMemBytes = true

/-- The completion state on success, written out (R214). -/
def completed (s : State) : State := { s with busy := false, done := true, pend := none }

/-- The completion state on `raise CmdError(c)`, written out (R214): nothing else differs from `s`. -/
def completedWith (c : ErrCode) (s : State) : State :=
  { s with busy := false, done := true, pend := none, err := true, errCode := if s.err then s.errCode else c }

/-- The effect of a refused host write, written out (R213): the error recorded, nothing else. -/
def refusedWrite (c : ErrCode) (s : State) : State :=
  { s with err := true, errCode := if s.err then s.errCode else c }

/-- Every byte of both memories reads as before. -/
def SameBytes (s t : State) : Prop := ∀ a, t.msgByte a = s.msgByte a ∧ t.keyByte a = s.keyByte a

/-- The register files are as before. -/
def SameFiles (s t : State) : Prop := t.h = s.h ∧ t.v = s.v ∧ t.w = s.w ∧ t.dg = s.dg

/-- The parameters, the counters behind the free values, and the host's side are as before. -/
def SameSurroundings (s t : State) : Prop :=
  t.params = s.params ∧ t.resets = s.resets ∧ t.draws = s.draws ∧ t.script = s.script ∧ t.schedule = s.schedule ∧
  t.reads = s.reads

/-- The host moves next and its next bus operation is `op`. -/
def HostOpNext (s : State) (op : HostOp) : Prop := s.turn = some .host ∧ s.script.head? = some op

/-- The state in which a bus operation acts: the turn is taken and the operation is done. -/
def afterOp (s : State) : State := { s with schedule := s.schedule.tail, script := s.script.tail }

/-- The engine moves next with the command word `word` pending. -/
def WordPending (s : State) (word : Word) : Prop := s.turn = some .engine ∧ s.busy = true ∧ s.pend = some word

/-- A sequence of commands performed one after the other. -/
def runCommands : List Instr → State → Result
  | [], s => .next s
  | i :: is, s =>
    match exec i s with
    | .next t => runCommands is t
    | .fault f => .fault f
    | .refused r => .refused r

/-- `n` steps, stopping at the first stop. -/
def runSteps : Nat → State → Result
  | 0, s => .next s
  | n + 1, s =>
    match step s with
    | .next t => runSteps n t
    | .fault f => .fault f
    | .refused r => .refused r

/-- The step-by-step digest of a message in `n` blocks (70_reset_and_hazards.md R244): PAD, INIT, BLOCK n times, FINAL. -/
def stepPath (n : Nat) : List Instr := [.pad, .init] ++ List.replicate n .block ++ [.final]

end Sys2Proof.Machine
end

