-- ==== Sys2Proof/Certificates/Slice0/Obligations.lean ====
section
/-! DEFINITION. The statements for the provers, each a numbered rule of the spec or derived from its sections. -/

open Sys2Proof Sys2Proof.Machine

/-! Encoding, decoding and the engine's turn -/

/-- 30_encoding.md R114, R120: decoding the word of a command gives the command back, for every command a word can hold. -/
def Obligations.DecodingAnEncodedCommandGivesItBack : Prop :=
  ∀ i : Instr, i.WellFormed → decode (encode i) = .ok i

/-- 30_encoding.md R115, R116: a word that decodes to a command is that command's only word, and the command fits in a
word. -/
def Obligations.EveryLegalWordIsItsCommandsWord : Prop :=
  ∀ (w : Word) (i : Instr), decode w = .ok i → i.WellFormed ∧ encode i = w

/-- 30_encoding.md R111, R120 and R121's examples: words written out from the table decode to their commands. -/
def Obligations.TableWordsDecodeToTheirCommands : Prop :=
  decode 0x00000000#32 = .ok .nop ∧ decode 0x00000001#32 = .ok .clear ∧ decode 0x00000002#32 = .ok .pad ∧
  decode 0x00000003#32 = .ok .init ∧ decode 0x00000004#32 = .ok .block ∧ decode 0x00000005#32 = .ok .final ∧
  decode 0x00000006#32 = .ok .expand ∧ decode 0x00001107#32 = .ok (.round 17) ∧
  decode 0x00004F07#32 = .ok (.round 79) ∧ decode 0x0000FF07#32 = .ok (.round 255) ∧ decode 0x00000008#32 = .ok .compress ∧
  decode 0x00000009#32 = .ok .hash ∧ decode 0x0000000A#32 = .ok .hmac

/-- 30_encoding.md R111, R114: every word is accepted by a CMD write, and what the engine's turn does with it when it is
pending, for all 2^32 words: the illegal ones complete with ILLEGAL_CMD and change nothing else; the others run the command of
R111's table, ROUND with i = RIDX. -/
def Obligations.EngineDecodesAndDispatchesEveryWord : Prop :=
  ∀ (s : State) (w : Word),
    (HostOpNext s (.wr 0x004 w) → s.busy = false →
      step s = .next { afterOp s with cmd := w, pend := some w, busy := true, done := false }) ∧
    (WordPending s w →
      ((w.toNat / 2 ^ 16 ≠ 0 ∨ 0x0A < w.toNat % 2 ^ 8 ∨ (w.toNat % 2 ^ 8 ≠ 0x07 ∧ w.toNat / 2 ^ 8 % 2 ^ 8 ≠ 0)) →
        step s = .next (completedWith .illegalCmd s.dropTurn)) ∧
      (w.toNat = 0x00 → step s = exec .nop s.dropTurn) ∧
      (w.toNat = 0x01 → step s = exec .clear s.dropTurn) ∧
      (w.toNat = 0x02 → step s = exec .pad s.dropTurn) ∧
      (w.toNat = 0x03 → step s = exec .init s.dropTurn) ∧
      (w.toNat = 0x04 → step s = exec .block s.dropTurn) ∧
      (w.toNat = 0x05 → step s = exec .final s.dropTurn) ∧
      (w.toNat = 0x06 → step s = exec .expand s.dropTurn) ∧
      (∀ ridx, ridx < 256 → w.toNat = ridx * 2 ^ 8 + 0x07 → step s = exec (.round ridx) s.dropTurn) ∧
      (w.toNat = 0x08 → step s = exec .compress s.dropTurn) ∧
      (w.toNat = 0x09 → step s = exec .hash s.dropTurn) ∧
      (w.toNat = 0x0A → step s = exec .hmac s.dropTurn))

/-- 20_memory.md R95, 30_encoding.md R114: when the pending word decodes to a command, the engine's step is the command's
meaning, run after the turn is taken. -/
def Obligations.EngineStepRunsTheDecodedCommand : Prop :=
  ∀ (s : State) (w : Word) (i : Instr), WordPending s w → decode w = .ok i → step s = exec i s.dropTurn

/-- Log 9 (DESIGN CHOICE): the very next step after `withFetchWord` runs the word's command on the state as an accepted CMD
write leaves it. -/
def Obligations.PlacedWordRunsAtTheNextStep : Prop :=
  ∀ (s : State) (w : Word) (i : Instr), decode w = .ok i →
    step (s.withFetchWord 32 w.toNat) = exec i { s with cmd := w, pend := some w, busy := true, done := false }

/-- Log 4 (DESIGN CHOICE), in the sense of 20_memory.md R95 and 60_exceptions.md R228: the engine's step is enabled only when
BUSY = 1, and an idle block keeps every register and byte. That a turn given to an idle engine only drops the turn, and that
nobody having a turn means BUSY = 0 (the engine moves once the schedule is used up), is the model's choice. -/
def Obligations.IdleBlockKeepsItsState : Prop :=
  (∀ s : State, s.turn = some .engine → s.busy = false → step s = .next s.dropTurn) ∧
  (∀ s : State, s.turn = none → step s = .next s ∧ s.busy = false)

/-! The commands, one rule each -/

/-- 44_digest.md R181. -/
def Obligations.NopDoesNothingButComplete : Prop :=
  decode 0x00000000#32 = .ok .nop ∧ ∀ s : State, exec .nop s = .next (completed s)

/-- 44_digest.md R182. -/
def Obligations.ClearReturnsToEmpty : Prop :=
  decode 0x00000001#32 = .ok .clear ∧ ∀ s : State, exec .clear s = .next (completed { s with
    msgLen := if s.inplace = true then s.origLen else s.msgLen
    inplace := false
    phase := .empty
    blkIdx := 0 })

/-- 44_digest.md R183; the values of `iv` are another statement's. -/
def Obligations.InitLoadsTheIvInPaddedOnly : Prop :=
  decode 0x00000003#32 = .ok .init ∧ ∀ s : State,
    (s.phase = .padded → exec .init s = .next (completed { s with h := iv, blkIdx := 0, phase := .processing })) ∧
    (s.phase ≠ .padded → exec .init s = .next (completedWith .sequence s))

/-- 44_digest.md R184. -/
def Obligations.BlockProcessesTheNextBlock : Prop :=
  decode 0x00000004#32 = .ok .block ∧ ∀ s : State,
    let bytes := (List.range 64).map (fun i => s.msgByte (64 * s.blkIdx.toNat + i))
    (s.phase = .processing → s.blkIdx.toNat < s.msgLen.toNat / 64 →
      exec .block s = .next (completed { s with
        w := expand bytes
        h := (compress s.h (expand bytes)).1
        v := (compress s.h (expand bytes)).2
        blkIdx := s.blkIdx + 1 })) ∧
    (s.phase ≠ .processing ∨ s.msgLen.toNat / 64 ≤ s.blkIdx.toNat →
      exec .block s = .next (completedWith .sequence s))

/-- 44_digest.md R185. -/
def Obligations.FinalCopiesTheStateIntoTheDigest : Prop :=
  decode 0x00000005#32 = .ok .final ∧ ∀ s : State,
    (s.phase = .processing → s.blkIdx.toNat = s.msgLen.toNat / 64 →
      exec .final s = .next (completed { s with dg := s.h, phase := .finalized })) ∧
    (s.phase ≠ .processing ∨ s.blkIdx.toNat ≠ s.msgLen.toNat / 64 →
      exec .final s = .next (completedWith .sequence s))

/-- 42_schedule.md R160, R161: EXPAND writes the schedule of the 64 bytes at BLK_OFF, word by word as the recurrence says,
and nothing else; RANGE beyond MSG_MEM_BYTES - 64. -/
def Obligations.ExpandWritesTheScheduleOfTheBlockAtBlkOff : Prop :=
  decode 0x00000006#32 = .ok .expand ∧ ∀ s : State, s.params.WellFormed →
    (s.params.msgMemBytes - 64 < s.blkOff.toNat → exec .expand s = .next (completedWith .range s)) ∧
    (s.blkOff.toNat ≤ s.params.msgMemBytes - 64 → ∃ w : Vector Word 80,
      exec .expand s = .next (completed { s with w := w }) ∧
      (∀ (j : Nat) (_ : j < 16), w[j] =
        be32 (s.msgByte (s.blkOff.toNat + 4 * j)) (s.msgByte (s.blkOff.toNat + 4 * j + 1))
          (s.msgByte (s.blkOff.toNat + 4 * j + 2)) (s.msgByte (s.blkOff.toNat + 4 * j + 3))) ∧
      (∀ (j : Nat) (_ : j + 16 < 80), w[j + 16] = rotl32 (w[j + 13] ^^^ w[j + 8] ^^^ w[j + 2] ^^^ w[j]) 1))

/-- 43_compression.md R170, R172: ROUND i for every index a word can hold. -/
def Obligations.RoundPerformsOneRound : Prop :=
  (∀ i, i < 256 → decode (BitVec.ofNat 32 (i * 2 ^ 8 + 0x07)) = .ok (.round i)) ∧
  ∀ (s : State) (i : Nat),
    (∀ hi : i < 80, exec (.round i) s = .next (completed { s with
      v := { w0 := rotl32 s.v.w0 5 + nonlinear ⟨i, hi⟩ s.v.w1 s.v.w2 s.v.w3 + s.v.w4 + roundConstant ⟨i, hi⟩ + s.w[i]
             w1 := s.v.w0
             w2 := rotl32 s.v.w1 30
             w3 := s.v.w2
             w4 := s.v.w3 } })) ∧
    (80 ≤ i → exec (.round i) s = .next (completedWith .range s))

/-- 43_compression.md R171, R173: COMPRESS runs the rounds 0..79 from V = H on the schedule in W, keeps the working values
in V, and adds them into H. -/
def Obligations.CompressChainsEightyRoundsIntoTheState : Prop :=
  decode 0x00000008#32 = .ok .compress ∧ ∀ (s : State) (q : Nat → Quint), q 0 = s.h →
    (∀ (i : Nat) (hi : i < 80), q (i + 1) = roundStep ⟨i, hi⟩ (q i) s.w[i]) →
    exec .compress s = .next (completed { s with
      v := q 80
      h := { w0 := s.h.w0 + (q 80).w0
             w1 := s.h.w1 + (q 80).w1
             w2 := s.h.w2 + (q 80).w2
             w3 := s.h.w3 + (q 80).w3
             w4 := s.h.w4 + (q 80).w4 } })

/-- 43_compression.md R172's corner case: the commands ROUND 0 .. ROUND 79, in order from V = H, leave in V what COMPRESS
leaves there. -/
def Obligations.EightyRoundCommandsLeaveTheWorkingValuesOfCompress : Prop :=
  ∀ s : State, s.v = s.h → ∃ t u : State,
    runCommands ((List.range 80).map .round) s = .next t ∧ exec .compress s = .next u ∧
    t.v = u.v ∧ t.h = s.h ∧ t.w = s.w

/-- 41_padding.md R152, 60_exceptions.md R211, R212: PAD's errors in their order, and on success every byte and register. -/
def Obligations.PadAppendsThePaddingInPlace : Prop :=
  decode 0x00000002#32 = .ok .pad ∧ ∀ s : State, s.params.WellFormed →
    let len := s.msgLen.toNat
    let z := ((55 - (len : Int)) % 64).toNat
    (s.phase ≠ .empty → exec .pad s = .next (completedWith .sequence s)) ∧
    (s.phase = .empty → s.params.msgMemBytes < len → exec .pad s = .next (completedWith .range s)) ∧
    (s.phase = .empty → len ≤ s.params.msgMemBytes → s.params.msgMemBytes < len + 9 + z →
      exec .pad s = .next (completedWith .capacity s)) ∧
    (s.phase = .empty → len + 9 + z ≤ s.params.msgMemBytes → ∃ t : State,
      exec .pad s = .next t ∧
      t.msgLen.toNat = len + 9 + z ∧ t.origLen = s.msgLen ∧ t.blkIdx = 0 ∧ t.inplace = true ∧ t.phase = .padded ∧
      t.busy = false ∧ t.done = true ∧ t.pend = none ∧ t.err = s.err ∧ t.errCode = s.errCode ∧
      t.msgByte len = 0x80#8 ∧
      (∀ k, k < z → t.msgByte (len + 1 + k) = 0x00#8) ∧
      (∀ k, k < 8 → (t.msgByte (len + 1 + z + k)).toNat = 8 * len / 2 ^ (8 * (7 - k)) % 2 ^ 8) ∧
      (∀ a, a < len ∨ len + 9 + z ≤ a → t.msgByte a = s.msgByte a) ∧
      (∀ a, t.keyByte a = s.keyByte a) ∧
      t.cmd = s.cmd ∧ t.ieDone = s.ieDone ∧ t.ieErr = s.ieErr ∧ t.keyLen = s.keyLen ∧ t.blkOff = s.blkOff ∧
      SameFiles s t ∧ SameSurroundings s t)

/-- 41_padding.md R152: after PAD the message memory holds pad(M) at offsets 0 .. |pad(M)| - 1, M being the message before. -/
def Obligations.PaddedMemoryHoldsThePaddedMessage : Prop :=
  ∀ s : State, s.params.WellFormed → s.phase = .empty → paddedLength s.msgLen.toNat ≤ s.params.msgMemBytes →
    ∃ t : State, exec .pad s = .next t ∧
      t.memRead 0 t.msgLen.toNat = padBytes (s.memRead 0 s.msgLen.toNat) ∧
      t.msgLen.toNat = (padBytes (s.memRead 0 s.msgLen.toNat)).length

/-- 44_digest.md R182: CLEAR after PAD makes the raw message valid again, and a second PAD writes the same bytes. -/
def Obligations.ClearUndoesPadAndPadRepeats : Prop :=
  ∀ s : State, s.params.WellFormed → s.phase = .empty → paddedLength s.msgLen.toNat ≤ s.params.msgMemBytes →
    ∃ t u r : State, exec .pad s = .next t ∧ exec .clear t = .next u ∧ exec .pad u = .next r ∧
      u.msgLen = s.msgLen ∧ u.phase = .empty ∧ u.inplace = false ∧ u.blkIdx = 0 ∧
      (∀ a, a < s.msgLen.toNat → u.msgByte a = s.msgByte a) ∧
      (∀ a, r.msgByte a = t.msgByte a) ∧ r.msgLen = t.msgLen ∧ r.origLen = t.origLen ∧ r.phase = .padded

/-- 44_digest.md R186: HASH's errors in their order, and on success the digest pass of the message bytes. -/
def Obligations.HashDigestsTheMessage : Prop :=
  decode 0x00000009#32 = .ok .hash ∧ ∀ s : State,
    let r := digestPass ((List.range s.msgLen.toNat).map s.msgByte)
    (s.inplace = true → exec .hash s = .next (completedWith .sequence s)) ∧
    (s.inplace = false → s.params.msgMemBytes < s.msgLen.toNat → exec .hash s = .next (completedWith .range s)) ∧
    (s.inplace = false → s.msgLen.toNat ≤ s.params.msgMemBytes →
      exec .hash s = .next (completed { s with
        h := r.h, v := r.v, w := r.w, dg := r.h
        blkIdx := BitVec.ofNat 32 ((s.msgLen.toNat + 8) / 64 + 1)
        phase := .finalized }))

/-- 45_hmac.md R200, R201, R202: HMAC's errors in their order, and on success the outer pass over ok || SHA1(ik || message),
with the key derived as R201 says; BLK_IDX is always 2. -/
def Obligations.HmacComputesTheTag : Prop :=
  decode 0x0000000A#32 = .ok .hmac ∧ ∀ s : State,
    let key := (List.range s.keyLen.toNat).map s.keyByte
    let msg := (List.range s.msgLen.toNat).map s.msgByte
    let reduced := if 64 < s.keyLen.toNat then sha1 key else key
    let k0 := reduced ++ List.replicate (64 - reduced.length) 0x00#8
    let r := digestPass (k0.map (fun b => b ^^^ 0x5C#8) ++ sha1 (k0.map (fun b => b ^^^ 0x36#8) ++ msg))
    (s.inplace = true → exec .hmac s = .next (completedWith .sequence s)) ∧
    (s.inplace = false → s.params.msgMemBytes < s.msgLen.toNat ∨ s.params.keyMemBytes < s.keyLen.toNat →
      exec .hmac s = .next (completedWith .range s)) ∧
    (s.inplace = false → s.msgLen.toNat ≤ s.params.msgMemBytes → s.keyLen.toNat ≤ s.params.keyMemBytes →
      exec .hmac s = .next (completed { s with
        h := r.h, v := r.v, w := r.w, dg := r.h, blkIdx := 2, phase := .finalized }))

/-- 44_digest.md R186 with R183 to R185 (90_conflicts.md C2): HASH gives exactly what the step-by-step path PAD, INIT, BLOCK
for every block, FINAL gives, in DG, H, V, W, BLK_IDX and PHASE, for every message that can be padded in place. -/
def Obligations.HashMatchesTheStepByStepPath : Prop :=
  ∀ s : State, s.params.WellFormed → s.phase = .empty → s.inplace = false →
    paddedLength s.msgLen.toNat ≤ s.params.msgMemBytes →
    ∃ t u : State, runCommands (stepPath ((s.msgLen.toNat + 8) / 64 + 1)) s = .next t ∧ exec .hash s = .next u ∧
      t.dg = u.dg ∧ t.h = u.h ∧ t.v = u.v ∧ t.w = u.w ∧ t.blkIdx = u.blkIdx ∧ t.phase = .finalized ∧
      u.phase = .finalized ∧ t.err = s.err ∧ u.err = s.err

/-! The functions the commands are made of -/

/-- 40_datapath.md R130, R131: the adder and the rotator as natural-number formulas. -/
def Obligations.AdderWrapsAndRotatorRotates : Prop :=
  (∀ x y : Word, (add32 x y).toNat = (x.toNat + y.toNat) % 2 ^ 32) ∧
  (∀ x y z : Word, (add32 (add32 x y) z).toNat = (x.toNat + y.toNat + z.toNat) % 2 ^ 32) ∧
  (∀ x : Word, rotl32 x 0 = x) ∧
  (∀ (x : Word) (n : Nat), 1 ≤ n → n ≤ 31 →
    (rotl32 x n).toNat = (x.toNat * 2 ^ n % 2 ^ 32) + x.toNat / 2 ^ (32 - n))

/-- 40_datapath.md R137: rotations compose, and commute with xor. -/
def Obligations.RotationsComposeAndCommuteWithXor : Prop :=
  (∀ (x : Word) (m n : Nat), m ≤ 31 → n ≤ 31 → rotl32 (rotl32 x m) n = rotl32 x ((m + n) % 32)) ∧
  (∀ (x y : Word) (n : Nat), n ≤ 31 → rotl32 (x ^^^ y) n = rotl32 x n ^^^ rotl32 y n)

/-- 40_datapath.md R133: f in its four ranges. -/
def Obligations.NonlinearFunctionFollowsTheRoundIndex : Prop :=
  ∀ (i : Fin 80) (b c d : Word),
    (i.val < 20 → nonlinear i b c d = (b &&& c) ||| (~~~b &&& d)) ∧
    (20 ≤ i.val → i.val < 40 → nonlinear i b c d = b ^^^ c ^^^ d) ∧
    (40 ≤ i.val → i.val < 60 → nonlinear i b c d = (b &&& c) ||| (b &&& d) ||| (c &&& d)) ∧
    (60 ≤ i.val → nonlinear i b c d = b ^^^ c ^^^ d)

/-- 40_datapath.md R134, with the values of R135 and R136, which the spec itself takes from general knowledge (log 10,
PRESUMED). -/
def Obligations.RoundConstantsAndIvHaveTheFipsValues : Prop :=
  (∀ i : Fin 80,
    (i.val < 20 → roundConstant i = 0x5A827999#32) ∧
    (20 ≤ i.val → i.val < 40 → roundConstant i = 0x6ED9EBA1#32) ∧
    (40 ≤ i.val → i.val < 60 → roundConstant i = 0x8F1BBCDC#32) ∧
    (60 ≤ i.val → roundConstant i = 0xCA62C1D6#32)) ∧
  iv = ⟨0x67452301#32, 0xEFCDAB89#32, 0x98BADCFE#32, 0x10325476#32, 0xC3D2E1F0#32⟩

/-- 41_padding.md R150, R151: the padded form piece by piece, its length the least multiple of 64 that fits, its last 8 bytes
the big-endian bit length. -/
def Obligations.PaddingInvariant : Prop :=
  ∀ m : List Byte,
    (padBytes m).length = 64 * ((m.length + 8) / 64 + 1) ∧
    (padBytes m).take m.length = m ∧
    (padBytes m)[m.length]? = some 0x80#8 ∧
    (∀ k, m.length < k → k < (padBytes m).length - 8 → (padBytes m)[k]? = some 0x00#8) ∧
    (∀ k, k < 8 → ∃ b, (padBytes m)[(padBytes m).length - 8 + k]? = some b ∧
      b.toNat = 8 * m.length / 2 ^ (8 * (7 - k)) % 2 ^ 8)

/-- 44_digest.md R180: the digest pass is the loop over the padded blocks from the IV, and SHA1 the serialized state,
20 bytes. -/
def Obligations.DigestPassLoopsOverThePaddedBlocks : Prop :=
  ∀ (m : List Byte) (q : Nat → Quint),
    let n := (padBytes m).length / 64
    let blk := fun b => ((padBytes m).drop (64 * b)).take 64
    q 0 = iv → (∀ b, b < n → q (b + 1) = (compress (q b) (expand (blk b))).1) →
      blockCount m.length = n ∧ (digestPass m).h = q n ∧ (digestPass m).w = expand (blk (n - 1)) ∧
      (digestPass m).v = (compress (q (n - 1)) (expand (blk (n - 1)))).2 ∧
      sha1 m = bytes32 (q n).w0 ++ bytes32 (q n).w1 ++ bytes32 (q n).w2 ++ bytes32 (q n).w3 ++ bytes32 (q n).w4 ∧
      (sha1 m).length = 20

/-! What commands leave alone -/

/-- 60_exceptions.md R214, 00_scope.md R15: every command completes. Whether it fails, and with which code, is read off its
performance with ERR cleared: if that records no error, the command's writes take effect with ERR and ERR_CODE unchanged; if it
records code c, nothing but the completion state of c is written, whatever ERR was. -/
def Obligations.EveryCommandCompletesAllOrNothing : Prop :=
  ∀ (i : Instr) (s : State), ∃ t u : State,
    exec i s = .next t ∧ exec i { s with err := false, errCode := .none } = .next u ∧
    t.busy = false ∧ t.done = true ∧ t.pend = none ∧
    ((u.err = false ∧ t = { u with err := s.err, errCode := s.errCode }) ∨
      (u.err = true ∧ u.errCode ∈ [ErrCode.sequence, ErrCode.range, ErrCode.capacity] ∧
        t = completedWith u.errCode s))

/-- The frame of every command, surroundings, plain registers and memories: 10_state.md R42, R43, 20_memory.md R84, R85. -/
def Obligations.CommandsLeaveInputsAndMemoriesAlone : Prop :=
  ∀ (i : Instr) (s t : State), exec i s = .next t →
    SameSurroundings s t ∧ t.cmd = s.cmd ∧ t.keyLen = s.keyLen ∧ t.blkOff = s.blkOff ∧ t.ieDone = s.ieDone ∧
    t.ieErr = s.ieErr ∧ (∀ a, t.keyByte a = s.keyByte a) ∧ (i ≠ .pad → ∀ a, t.msgByte a = s.msgByte a)

/-- The frame of every command, register files: only the commands that 10_state.md R46 to R49 name write H, V, W and DG. -/
def Obligations.OnlyTheNamedCommandsWriteTheRegisterFiles : Prop :=
  ∀ (i : Instr) (s t : State), exec i s = .next t →
    (i ∉ [.init, .block, .compress, .hash, .hmac] → t.h = s.h) ∧
    ((∀ r, i ≠ .round r) → i ∉ [.compress, .block, .hash, .hmac] → t.v = s.v) ∧
    (i ∉ [.expand, .block, .hash, .hmac] → t.w = s.w) ∧
    (i ∉ [.final, .hash, .hmac] → t.dg = s.dg)

/-- The frame of every command, sequencing: only the commands that 10_state.md R36, R37, R41, R44 and R45 name write INPLACE,
PHASE, MSG_LEN, BLK_IDX and ORIG_LEN. -/
def Obligations.OnlyTheNamedCommandsWriteTheSequencingState : Prop :=
  ∀ (i : Instr) (s t : State), exec i s = .next t →
    (i ∉ [.pad, .clear] → t.inplace = s.inplace ∧ t.msgLen = s.msgLen) ∧
    (i ≠ .pad → t.origLen = s.origLen) ∧
    (i ∉ [.clear, .pad, .init, .final, .hash, .hmac] → t.phase = s.phase) ∧
    (i ∉ [.pad, .init, .block, .clear, .hash, .hmac] → t.blkIdx = s.blkIdx)

/-- 10_state.md R37: PHASE stands in STATUS bits 5:4 with its encoding, a step that changes it is a reset, which leaves EMPTY,
or the performance of one of the six commands. -/
def Obligations.PhaseChangesOnlyByItsCommandsOrReset : Prop :=
  (∀ s : State, s.statusWord.toNat / 2 ^ 4 % 4 =
    match s.phase with | .empty => 0 | .padded => 1 | .processing => 2 | .finalized => 3) ∧
  ∀ s t : State, step s = .next t →
    (s.turn = some .reset → t.phase = .empty) ∧
    (t.phase ≠ s.phase → s.turn = some .reset ∨
      ∃ w i, WordPending s w ∧ decode w = .ok i ∧ i ∈ [.clear, .pad, .init, .final, .hash, .hmac])

/-- 70_reset_and_hazards.md R251: BLOCK rewrites W and reseeds V from H, and COMPRESS ignores the old V, so neither depends on
what stood there. -/
def Obligations.BlockIgnoresOldWAndVAndCompressIgnoresOldV : Prop :=
  ∀ (s : State) (v' : Quint) (w' : Vector Word 80),
    (s.phase = .processing → s.blkIdx.toNat < s.msgLen.toNat / 64 →
      exec .block { s with v := v', w := w' } = exec .block s) ∧
    exec .compress { s with v := v' } = exec .compress s

/-- 20_memory.md R88, 44_digest.md R180, R186, 45_hmac.md R200: HASH depends on the message bytes only, HMAC on the message
and key bytes only; no byte beyond the lengths, and no old register, reaches their results. -/
def Obligations.HashAndHmacDependOnTheirInputsOnly : Prop :=
  ∀ s r : State, s.params = r.params → s.inplace = false → r.inplace = false → s.msgLen = r.msgLen →
    s.msgLen.toNat ≤ s.params.msgMemBytes → (∀ a, a < s.msgLen.toNat → s.msgByte a = r.msgByte a) →
    (∃ t u : State, exec .hash s = .next t ∧ exec .hash r = .next u ∧
      t.dg = u.dg ∧ t.h = u.h ∧ t.v = u.v ∧ t.w = u.w ∧ t.blkIdx = u.blkIdx) ∧
    (s.keyLen = r.keyLen → s.keyLen.toNat ≤ s.params.keyMemBytes →
      (∀ a, a < s.keyLen.toNat → s.keyByte a = r.keyByte a) →
      ∃ t u : State, exec .hmac s = .next t ∧ exec .hmac r = .next u ∧
        t.dg = u.dg ∧ t.h = u.h ∧ t.v = u.v ∧ t.w = u.w ∧ t.blkIdx = u.blkIdx)

/-! STATUS, CTRL, IRQ and errors -/

/-- 10_state.md section 3: the STATUS word a read builds, every field at its place. -/
def Obligations.StatusWordHasItsLayout : Prop :=
  ∀ s : State, s.statusWord.toNat =
    s.busy.toNat + 2 * s.done.toNat + 4 * s.err.toNat + 8 * s.inplace.toNat +
    16 * (match s.phase with | .empty => 0 | .padded => 1 | .processing => 2 | .finalized => 3) +
    256 * (match s.errCode with
      | .none => 0 | .illegalCmd => 1 | .sequence => 2 | .range => 3 | .capacity => 4 | .busy => 5)

/-- 10_state.md R39 with R34 and R35: a STATUS write, at any time, changes DONE, ERR and ERR_CODE only, and the reserved bits
read 0. -/
def Obligations.StatusWriteClearsWhatItNames : Prop :=
  (∀ (s : State) (x : Word), HostOpNext s (.wr 0x008 x) → step s = .next { afterOp s with
    done := if x.getLsbD 1 = true then false else s.done
    err := if x.getLsbD 2 = true then false else s.err
    errCode := if x.getLsbD 2 = true then .none else s.errCode }) ∧
  (∀ (s : State) (k : Nat), k = 6 ∨ k = 7 ∨ 12 ≤ k → s.statusWord.getLsbD k = false)

/-- 10_state.md R34: DONE falls when a command is accepted, rises when the engine completes one, is cleared by writing 1; no
other step but a reset changes it. -/
def Obligations.DoneFollowsAcceptanceAndCompletion : Prop :=
  ∀ s t : State, step s = .next t →
    (∀ x, HostOpNext s (.wr 0x004 x) → s.busy = false → t.done = false) ∧
    (s.turn = some .engine → s.busy = true → t.done = true) ∧
    (∀ x, HostOpNext s (.wr 0x008 x) → t.done = if x.getLsbD 1 = true then false else s.done) ∧
    (t.done ≠ s.done → s.turn = some .reset ∨ (s.turn = some .engine ∧ s.busy = true) ∨
      ∃ x, (HostOpNext s (.wr 0x004 x) ∧ s.busy = false) ∨ (HostOpNext s (.wr 0x008 x) ∧ x.getLsbD 1 = true))

/-- 10_state.md R38: the first error is kept, whatever the step, and ERR_CODE is 0 whenever ERR is. -/
def Obligations.FirstErrorIsKept : Prop :=
  ∀ s t : State, step s = .next t →
    (s.err = true → t.err = true → t.errCode = s.errCode) ∧
    (s.Inv → (t.err = false ↔ t.errCode = .none))

/-- 10_state.md R35, 60_exceptions.md R218: ERR stays 1 until a host write of STATUS with bit 2 = 1, or a reset. -/
def Obligations.ErrorIsClearedOnlyByTheHostOrReset : Prop :=
  ∀ s t : State, step s = .next t → s.err = true → t.err = false →
    s.turn = some .reset ∨ ∃ x, HostOpNext s (.wr 0x008 x) ∧ x.getLsbD 2 = true

/-- 10_state.md R40: a CTRL write, at any time, changes the two enables only; CTRL reads them back, all other bits 0. -/
def Obligations.CtrlWriteSetsTheEnables : Prop :=
  (∀ (s : State) (x : Word), HostOpNext s (.wr 0x00C x) →
    step s = .next { afterOp s with ieDone := x.getLsbD 0, ieErr := x.getLsbD 1 }) ∧
  (∀ s : State, HostOpNext s (.rd 0x00C) → ∃ y : Word,
    step s = .next { afterOp s with reads := y :: s.reads } ∧ y.toNat = s.ieDone.toNat + 2 * s.ieErr.toNat)

/-- 10_state.md R55: IRQ, a function of four bits. -/
def Obligations.IrqIsItsFourBits : Prop :=
  (∀ s : State, s.irq = true ↔ (s.done = true ∧ s.ieDone = true) ∨ (s.err = true ∧ s.ieErr = true)) ∧
  (∀ s t : State, s.irq ≠ t.irq → s.done ≠ t.done ∨ s.err ≠ t.err ∨ s.ieDone ≠ t.ieDone ∨ s.ieErr ≠ t.ieErr)

/-! Host accesses -/

/-- 10_state.md R32, 20_memory.md R95: a CMD write is accepted when BUSY = 0 and refused with BUSY when BUSY = 1; a read of CMD
returns the last accepted word at any time. -/
def Obligations.CmdWriteIssuesWhenIdle : Prop :=
  (∀ (s : State) (x : Word), HostOpNext s (.wr 0x004 x) →
    (s.busy = false →
      step s = .next { afterOp s with cmd := x, pend := some x, busy := true, done := false }) ∧
    (s.busy = true → step s = .next (refusedWrite .busy (afterOp s)))) ∧
  (∀ s : State, HostOpNext s (.rd 0x004) → step s = .next { afterOp s with reads := s.cmd :: s.reads })

/-- 60_exceptions.md R213, 20_memory.md R91: (a) every location but STATUS, CTRL, the read-only and the unmapped ones is refused
while BUSY = 1; (b) MSG_LEN is refused while INPLACE = 1. A refused write does nothing but record its error. -/
def Obligations.RefusedWritesRecordTheirErrorOnly : Prop :=
  ∀ (s : State) (off x : Word), s.params.WellFormed → HostOpNext s (.wr off x) → off.toNat % 4 = 0 →
    (s.busy = true →
      off.toNat = 0x004 ∨ (0x010 ≤ off.toNat ∧ off.toNat ≤ 0x018) ∨ (0x040 ≤ off.toNat ∧ off.toNat < 0x054) ∨
      (0x060 ≤ off.toNat ∧ off.toNat < 0x074) ∨ (0x100 ≤ off.toNat ∧ off.toNat < 0x240) ∨
      (0x1000 ≤ off.toNat ∧ off.toNat < 0x1000 + s.params.keyMemBytes) ∨
      (0x10000 ≤ off.toNat ∧ off.toNat < 0x10000 + s.params.msgMemBytes) →
      step s = .next (refusedWrite .busy (afterOp s))) ∧
    (s.busy = false → s.inplace = true → off.toNat = 0x010 → step s = .next (refusedWrite .sequence (afterOp s)))

/-- 10_state.md R30, R56: at any time, a write of ID, BLK_IDX, ORIG_LEN, DIGEST0..4 or an unmapped offset changes nothing and
records no error, and an unmapped offset reads 0. -/
def Obligations.ReadOnlyAndUnmappedWritesAreIgnored : Prop :=
  ∀ (s : State) (off : Word), s.params.WellFormed → off.toNat % 4 = 0 →
    let unmapped := (0x024 ≤ off.toNat ∧ off.toNat < 0x040) ∨ (0x054 ≤ off.toNat ∧ off.toNat < 0x060) ∨
      (0x074 ≤ off.toNat ∧ off.toNat < 0x080) ∨ (0x094 ≤ off.toNat ∧ off.toNat < 0x100) ∨
      (0x240 ≤ off.toNat ∧ off.toNat < 0x1000) ∨
      (0x1000 + s.params.keyMemBytes ≤ off.toNat ∧ off.toNat < 0x10000)
    (∀ x, HostOpNext s (.wr off x) →
      unmapped ∨ off.toNat = 0x000 ∨ off.toNat = 0x01C ∨ off.toNat = 0x020 ∨
        (0x080 ≤ off.toNat ∧ off.toNat < 0x094) →
      step s = .next (afterOp s)) ∧
    (HostOpNext s (.rd off) → unmapped → step s = .next { afterOp s with reads := 0 :: s.reads })

/-- 10_state.md R41, R42, R43, R46, R47, R48: while BUSY = 0, a write of a plain register stores the value as written, in that
register alone. -/
def Obligations.IdleWritesStoreTheirValue : Prop :=
  ∀ (s : State) (x : Word), s.params.WellFormed → s.busy = false →
    (HostOpNext s (.wr 0x010 x) → s.inplace = false → step s = .next { afterOp s with msgLen := x }) ∧
    (HostOpNext s (.wr 0x014 x) → step s = .next { afterOp s with keyLen := x }) ∧
    (HostOpNext s (.wr 0x018 x) → step s = .next { afterOp s with blkOff := x }) ∧
    (HostOpNext s (.wr 0x040 x) → step s = .next { afterOp s with h := { s.h with w0 := x } }) ∧
    (HostOpNext s (.wr 0x044 x) → step s = .next { afterOp s with h := { s.h with w1 := x } }) ∧
    (HostOpNext s (.wr 0x048 x) → step s = .next { afterOp s with h := { s.h with w2 := x } }) ∧
    (HostOpNext s (.wr 0x04C x) → step s = .next { afterOp s with h := { s.h with w3 := x } }) ∧
    (HostOpNext s (.wr 0x050 x) → step s = .next { afterOp s with h := { s.h with w4 := x } }) ∧
    (HostOpNext s (.wr 0x060 x) → step s = .next { afterOp s with v := { s.v with w0 := x } }) ∧
    (HostOpNext s (.wr 0x064 x) → step s = .next { afterOp s with v := { s.v with w1 := x } }) ∧
    (HostOpNext s (.wr 0x068 x) → step s = .next { afterOp s with v := { s.v with w2 := x } }) ∧
    (HostOpNext s (.wr 0x06C x) → step s = .next { afterOp s with v := { s.v with w3 := x } }) ∧
    (HostOpNext s (.wr 0x070 x) → step s = .next { afterOp s with v := { s.v with w4 := x } }) ∧
    (∀ (j : Nat) (hj : j < 80), HostOpNext s (.wr (BitVec.ofNat 32 (0x100 + 4 * j)) x) →
      step s = .next { afterOp s with w := s.w.set j x hj })

/-- 20_memory.md R86: the big-endian lanes of both windows, written and read, while BUSY = 0; a window write changes its four
bytes and nothing else. -/
def Obligations.WindowsAreBigEndian : Prop :=
  ∀ (s : State) (k : Nat) (x : Word), s.params.WellFormed → s.busy = false →
    (4 * k < s.params.msgMemBytes →
      (HostOpNext s (.wr (BitVec.ofNat 32 (0x10000 + 4 * k)) x) → ∃ m : Memory,
        step s = .next { afterOp s with msgMem := m } ∧
        ∀ a, State.msgByte { s with msgMem := m } a =
          if a = 4 * k then x.extractLsb' 24 8 else if a = 4 * k + 1 then x.extractLsb' 16 8
          else if a = 4 * k + 2 then x.extractLsb' 8 8 else if a = 4 * k + 3 then x.extractLsb' 0 8
          else s.msgByte a) ∧
      (HostOpNext s (.rd (BitVec.ofNat 32 (0x10000 + 4 * k))) → step s = .next { afterOp s with
        reads := be32 (s.msgByte (4 * k)) (s.msgByte (4 * k + 1)) (s.msgByte (4 * k + 2)) (s.msgByte (4 * k + 3))
          :: s.reads })) ∧
    (4 * k < s.params.keyMemBytes →
      (HostOpNext s (.wr (BitVec.ofNat 32 (0x1000 + 4 * k)) x) → ∃ m : Memory,
        step s = .next { afterOp s with keyMem := m } ∧
        ∀ a, State.keyByte { s with keyMem := m } a =
          if a = 4 * k then x.extractLsb' 24 8 else if a = 4 * k + 1 then x.extractLsb' 16 8
          else if a = 4 * k + 2 then x.extractLsb' 8 8 else if a = 4 * k + 3 then x.extractLsb' 0 8
          else s.keyByte a) ∧
      (HostOpNext s (.rd (BitVec.ofNat 32 (0x1000 + 4 * k))) → step s = .next { afterOp s with
        reads := be32 (s.keyByte (4 * k)) (s.keyByte (4 * k + 1)) (s.keyByte (4 * k + 2)) (s.keyByte (4 * k + 3))
          :: s.reads }))

/-- 10_state.md R30, R31, R56: while BUSY = 0, a read of a register returns its current value. -/
def Obligations.IdleReadsReturnTheRegister : Prop :=
  ∀ (s : State) (off y : Word), s.params.WellFormed → s.busy = false → HostOpNext s (.rd off) →
    (off, y) ∈ [(0x000#32, 0x53484131#32), (0x004#32, s.cmd), (0x008#32, s.statusWord),
      (0x00C#32, s.ctrlWord), (0x010#32, s.msgLen),
      (0x014#32, s.keyLen), (0x018#32, s.blkOff), (0x01C#32, s.blkIdx), (0x020#32, s.origLen),
      (0x040#32, s.h.w0), (0x044#32, s.h.w1), (0x048#32, s.h.w2), (0x04C#32, s.h.w3), (0x050#32, s.h.w4),
      (0x060#32, s.v.w0), (0x064#32, s.v.w1), (0x068#32, s.v.w2), (0x06C#32, s.v.w3), (0x070#32, s.v.w4),
      (0x080#32, s.dg.w0), (0x084#32, s.dg.w1), (0x088#32, s.dg.w2), (0x08C#32, s.dg.w3), (0x090#32, s.dg.w4)] ∨
    (∃ (j : Nat) (hj : j < 80), off = BitVec.ofNat 32 (0x100 + 4 * j) ∧ y = s.w[j]) →
    step s = .next { afterOp s with reads := y :: s.reads }

/-- 20_memory.md R97: while BUSY = 1, reads of the locations a command may write answer an unspecified value, and reads of the
others their true value. That the unspecified value is the constant without a body `Config.busyRead` of the counter `draws`, and
that the read advances the counter, is the model's choice (log 3, DESIGN CHOICE). -/
def Obligations.BusyReadsAreDrawsOrTrue : Prop :=
  ∀ (s : State) (off : Word), s.params.WellFormed → s.busy = true → HostOpNext s (.rd off) → off.toNat % 4 = 0 →
    (off.toNat = 0x010 ∨ off.toNat = 0x01C ∨ off.toNat = 0x020 ∨ (0x040 ≤ off.toNat ∧ off.toNat < 0x054) ∨
      (0x060 ≤ off.toNat ∧ off.toNat < 0x074) ∨ (0x080 ≤ off.toNat ∧ off.toNat < 0x094) ∨
      (0x100 ≤ off.toNat ∧ off.toNat < 0x240) ∨
      (0x10000 ≤ off.toNat ∧ off.toNat < 0x10000 + s.params.msgMemBytes) →
      step s = .next { afterOp s with reads := Config.busyRead s.draws :: s.reads, draws := s.draws + 1 }) ∧
    (∀ y : Word,
      (off, y) ∈ [(0x000#32, 0x53484131#32), (0x004#32, s.cmd), (0x008#32, s.statusWord), (0x00C#32, s.ctrlWord),
        (0x014#32, s.keyLen), (0x018#32, s.blkOff)] ∨
      (∃ k, 4 * k < s.params.keyMemBytes ∧ off = BitVec.ofNat 32 (0x1000 + 4 * k) ∧
        y = be32 (s.keyByte (4 * k)) (s.keyByte (4 * k + 1)) (s.keyByte (4 * k + 2)) (s.keyByte (4 * k + 3))) →
      step s = .next { afterOp s with reads := y :: s.reads })

/-- 20_memory.md R90: a host read changes nothing but what the host has read (and the model's count of draws). -/
def Obligations.HostReadsHaveNoSideEffects : Prop :=
  ∀ (s t : State) (off : Word), HostOpNext s (.rd off) → step s = .next t →
    ∃ y d, t = { afterOp s with reads := y :: s.reads, draws := d }

/-- 20_memory.md R80, 60_exceptions.md R220: a misaligned access, or one of another width, is the host's fault. -/
def Obligations.MisalignedOrSubwordAccessIsAHostFault : Prop :=
  ∀ (s : State) (off x : Word),
    (HostOpNext s (.wr off x) ∨ HostOpNext s (.rd off) → off.toNat % 4 ≠ 0 → step s = .fault .hostProtocol) ∧
    (HostOpNext s (.subword off) → step s = .fault .hostProtocol)

/-- 30_encoding.md R122: `wait` reads STATUS and stays while BUSY = 1. -/
def Obligations.WaitPollsStatusUntilIdle : Prop :=
  ∀ s : State, HostOpNext s .wait →
    (s.busy = true → step s = .next { s.dropTurn with reads := s.statusWord :: s.reads }) ∧
    (s.busy = false → step s = .next { afterOp s with reads := s.statusWord :: s.reads })

/-! Reset, invariants and the whole machine -/

/-- 70_reset_and_hazards.md R240, R241, R243: a reset, from any state and also while a command is pending, puts every register
at the value of R241's table, abandons the command, and leaves both memories unspecified. That the unspecified bytes are the free
values selected by the counter `resets`, and that each reset advances it by one, is the model's choice (log 2 and log 11, DESIGN
CHOICE). -/
def Obligations.ResetPutsEveryRegisterAtItsResetValue : Prop :=
  ∀ s : State, s.turn = some .reset → ∃ t : State, step s = .next t ∧
    t.cmd = 0 ∧ t.busy = false ∧ t.done = false ∧ t.err = false ∧ t.inplace = false ∧ t.phase = .empty ∧
    t.errCode = .none ∧ t.ieDone = false ∧ t.ieErr = false ∧ t.msgLen = 0 ∧ t.keyLen = 0 ∧ t.blkOff = 0 ∧
    t.blkIdx = 0 ∧ t.origLen = 0 ∧ t.h = ⟨0, 0, 0, 0, 0⟩ ∧ t.v = ⟨0, 0, 0, 0, 0⟩ ∧ t.dg = ⟨0, 0, 0, 0, 0⟩ ∧
    (∀ (j : Nat) (_ : j < 80), t.w[j] = 0) ∧ t.pend = none ∧ t.irq = false ∧
    t.readLoc .id = 0x53484131#32 ∧ t.statusWord = 0 ∧ t.resets = s.resets + 1 ∧
    ∀ a, t.msgByte a = Config.msgPowerUp t.resets a ∧ t.keyByte a = Config.keyPowerUp t.resets a

/-- 70_reset_and_hazards.md R241, 20_memory.md R94: the state right after reset. That its unspecified memory bytes are the free
values numbered 0 is the model's choice (log 2, DESIGN CHOICE). -/
def Obligations.ResetStateHasTheResetValues : Prop :=
  State.reset.statusWord = 0 ∧ State.reset.ctrlWord = 0 ∧ State.reset.cmd = 0 ∧ State.reset.pend = none ∧
  State.reset.msgLen = 0 ∧ State.reset.keyLen = 0 ∧ State.reset.blkOff = 0 ∧ State.reset.blkIdx = 0 ∧
  State.reset.origLen = 0 ∧ State.reset.h = ⟨0, 0, 0, 0, 0⟩ ∧ State.reset.v = ⟨0, 0, 0, 0, 0⟩ ∧
  State.reset.dg = ⟨0, 0, 0, 0, 0⟩ ∧ (∀ j : Fin 80, State.reset.w[j] = 0) ∧ State.reset.irq = false ∧
  State.reset.readLoc .id = 0x53484131#32 ∧
  ∀ a, State.reset.msgByte a = Config.msgPowerUp 0 a ∧ State.reset.keyByte a = Config.keyPowerUp 0 a

/-- 10_state.md R54: the invariants hold right after reset. They are R54 (a) to (f), the capacities of 00_scope.md R9 and R10
(carried in State by log 1, DESIGN CHOICE), and two clauses that are the model's own: while BUSY = 1 PEND is the word of CMD
(log 6, DEDUCED from R32 and R50), and both memories are canonical and inside their capacities (log 15, DESIGN CHOICE). -/
def Obligations.ResetSatisfiesTheInvariants : Prop := State.reset.Inv

/-- 10_state.md R54: every step, of any agent and from any state that satisfies them, keeps the invariants. They are
R54 (a) to (f), the capacities of 00_scope.md R9 and R10 (carried in State by log 1, DESIGN CHOICE), and two clauses that are
the model's own: while BUSY = 1 PEND is the word of CMD (log 6, DEDUCED from R32 and R50), and both memories are canonical and
inside their capacities (log 15, DESIGN CHOICE). -/
def Obligations.EveryStepKeepsTheInvariants : Prop :=
  ∀ s t : State, s.Inv → step s = .next t → t.Inv

/-- 60_exceptions.md R220, 10_state.md R54: from a state that satisfies the invariants, a step stops only on the host's own
misaligned, sub-word or out-of-span access; the engine never stops. That an out-of-span access stops is the model's choice (log 8,
DESIGN CHOICE), and so is the check `emptyPend`, which the invariants rule out here (log 6). -/
def Obligations.OnlyTheHostsOwnAccessCanStopAStep : Prop :=
  ∀ s : State, s.Inv → (∃ t, step s = .next t) ∨
    (∃ off, HostOpNext s (.subword off)) ∨
    (∃ off x, (HostOpNext s (.wr off x) ∨ HostOpNext s (.rd off)) ∧
      (off.toNat % 4 ≠ 0 ∨ 0x10000 + s.params.msgMemBytes ≤ off.toNat))

/-- 70_reset_and_hazards.md R255 (weak fairness) and R243: within one step more than the schedule is long, a pending command is
performed, or is abandoned by a reset, or the run stops; the first two both leave BUSY = 0. That the engine moves once the schedule
is used up, and so the bound, is the model's choice (log 4, DESIGN CHOICE). -/
def Obligations.PendingCommandIsPerformedInBoundedSteps : Prop :=
  ∀ s : State, s.Inv → s.busy = true → ∃ n, n ≤ s.schedule.length + 1 ∧
    ((∃ t, runSteps n s = .next t ∧ t.busy = false) ∨ ∀ t, runSteps n s ≠ .next t)

/-- 20_memory.md R91, R96 (b): nothing the host does while a command is pending changes an input of the command. -/
def Obligations.HostCannotChangeAPendingCommandsInputs : Prop :=
  ∀ s t : State, s.turn = some .host → s.busy = true → step s = .next t →
    t.busy = true ∧ t.pend = s.pend ∧ t.cmd = s.cmd ∧ t.inplace = s.inplace ∧ t.phase = s.phase ∧
    t.msgLen = s.msgLen ∧ t.keyLen = s.keyLen ∧ t.blkOff = s.blkOff ∧ t.blkIdx = s.blkIdx ∧ t.origLen = s.origLen ∧
    SameFiles s t ∧ SameBytes s t ∧ t.params = s.params ∧ t.resets = s.resets

/-- 00_scope.md R8: the block's behaviour does not depend on BASE. -/
def Obligations.BehaviourDoesNotDependOnBase : Prop :=
  ∀ (s : State) (b : Nat),
    let rebased := fun r : State => { r with params := { r.params with base := b } }
    (∀ t, step s = .next t → step (rebased s) = .next (rebased t)) ∧
    (∀ f, step s = .fault f → step (rebased s) = .fault f) ∧
    (∀ r, step s = .refused r → step (rebased s) = .refused r)
end

