-- ==== Sys2Proof/Laws/Datapath.lean ====
section
/-! SUPPORT. The laws of the datapath: sizes, the inverse of be32, the schedule word by word, the padded length. -/

namespace Sys2Proof.Machine

@[simp] theorem bytes32_length (x : Word) : (bytes32 x).length = 4 := by simp [bytes32]

@[simp] theorem bytes64_length (n : Nat) : (bytes64 n).length = 8 := by simp [bytes64]

@[simp] theorem ser_length (h : Quint) : (ser h).length = 20 := by simp [ser]

@[simp] theorem sha1_length (bs : List Byte) : (sha1 bs).length = 20 := by simp [sha1]

/-- be32 inverts bytes32 (00_scope.md R14). -/
theorem be32_bytes32 (x : Word) :
    be32 (x.extractLsb' 24 8) (x.extractLsb' 16 8) (x.extractLsb' 8 8) (x.extractLsb' 0 8) = x := by
  apply BitVec.eq_of_getLsbD_eq
  intro i hi
  simp only [be32]
  rw [BitVec.getLsbD_append, BitVec.getLsbD_append, BitVec.getLsbD_append]
  simp only [BitVec.getLsbD_extractLsb']
  split
  · simp [*]
  · split
    · rw [show 8 + (i - 8) = i by omega]; simp [*]
    · split
      · rw [show 16 + (i - 8 - 8) = i by omega]; simp [*]
      · rw [show 24 + (i - 8 - 8 - 8) = i by omega]; simp; omega

/-- be32 as the sum R14 gives. -/
theorem be32_toNat (b0 b1 b2 b3 : Byte) :
    (be32 b0 b1 b2 b3).toNat = b0.toNat * 2 ^ 24 + b1.toNat * 2 ^ 16 + b2.toNat * 2 ^ 8 + b3.toNat := by
  have e (x y : Nat) (hy : y < 2 ^ 8) : x <<< 8 ||| y = x * 2 ^ 8 + y := by
    rw [← Nat.shiftLeft_add_eq_or_of_lt hy, Nat.shiftLeft_eq]
  simp only [be32]
  rw [BitVec.toNat_append, BitVec.toNat_append, BitVec.toNat_append, e _ _ b3.isLt, e _ _ b2.isLt, e _ _ b1.isLt]
  omega

@[simp] theorem hashBlock_h (h : Quint) (b : List Byte) : (hashBlock h b).h = (compress h (expand b)).1 := rfl

@[simp] theorem hashBlock_v (h : Quint) (b : List Byte) : (hashBlock h b).v = (compress h (expand b)).2 := rfl

@[simp] theorem hashBlock_w (h : Quint) (b : List Byte) : (hashBlock h b).w = expand b := rfl

theorem padZeros_lt (len : Nat) : padZeros len < 64 := Nat.mod_lt _ (by decide)

/-- The padded length is the least multiple of 64 that fits (41_padding.md R151). -/
theorem paddedLength_eq (len : Nat) : paddedLength len = 64 * ((len + 8) / 64 + 1) := by
  simp only [paddedLength, padZeros]
  omega

theorem blockCount_eq (len : Nat) : blockCount len = (len + 8) / 64 + 1 := by
  rw [blockCount, paddedLength_eq, Nat.mul_div_cancel_left _ (by decide)]

@[simp] theorem padBytes_length (m : List Byte) : (padBytes m).length = paddedLength m.length := by
  simp only [padBytes, paddedLength, List.length_append, List.length_replicate, bytes64_length, List.length_cons,
    List.length_nil]
  omega

@[simp] theorem hmacKey_length (key : List Byte) : (hmacKey key).length = 64 := by
  have h : (reduceKey key).length ≤ 64 := by
    rw [reduceKey]; split
    · simp
    · omega
  simp only [hmacKey]
  split
  · simp only [List.length_append, List.length_replicate]; omega
  · omega

@[simp] theorem maskKey_length (mask : Byte) (k0 : List Byte) : (maskKey mask k0).length = k0.length := by simp [maskKey]

/-- The inner input is 64 bytes and the message (45_hmac.md R200). -/
@[simp] theorem innerInput_length (key msg : List Byte) : (innerInput key msg).length = 64 + msg.length := by
  simp [innerInput]

/-- The outer input is always 64 + 20 bytes (R200). -/
@[simp] theorem outerInput_length (key msg : List Byte) : (outerInput key msg).length = 84 := by simp [outerInput]

/-- Extending the schedule keeps the words it started from, at its end. -/
theorem extendSchedule_drop (n : Nat) (ws : List Word) : (extendSchedule n ws).drop n = ws := by
  induction n generalizing ws with
  | zero => rfl
  | succ n ih =>
    have h := congrArg (List.drop 1) (ih (nextScheduleWord ws :: ws))
    rwa [List.drop_drop, List.drop_one, List.tail_cons] at h

theorem extendSchedule_add (m n : Nat) (ws : List Word) :
    extendSchedule (m + n) ws = extendSchedule n (extendSchedule m ws) := by
  induction m generalizing ws with
  | zero => simp [extendSchedule]
  | succ m ih => rw [Nat.succ_add, extendSchedule, extendSchedule, ih]

theorem extendSchedule_succ (n : Nat) (ws : List Word) :
    extendSchedule (n + 1) ws = nextScheduleWord (extendSchedule n ws) :: extendSchedule n ws := by
  rw [extendSchedule_add]; rfl

/-- The word at place j of the expansion, read from the list the expansion builds. -/
theorem expand_getElem (b : List Byte) (j : Nat) (hj : j < 80) :
    (expand b)[j] = (extendSchedule 64 (firstWords b)).getD (79 - j) 0 := by
  have hl : (extendSchedule 64 (firstWords b)).length = 80 := by simp [extendSchedule_length, firstWords_length]
  simp [expand, List.getD, hl, show 79 - j < 80 by omega]

/-- Byte k of bytes64 is the k-th base-256 digit from the top (00_scope.md R14). -/
theorem bytes64_getD (n k : Nat) (hk : k < 8) : ((bytes64 n).getD k 0).toNat = n / 2 ^ (8 * (7 - k)) % 2 ^ 8 := by
  have key (j : Nat) (hj : j ≤ 56) : ((BitVec.ofNat 64 n).extractLsb' j 8).toNat = n / 2 ^ j % 2 ^ 8 := by
    rw [BitVec.extractLsb'_toNat, BitVec.toNat_ofNat, Nat.shiftRight_eq_div_pow,
      show 2 ^ 64 = 2 ^ j * 2 ^ (64 - j) by rw [← pow_add]; congr 1; omega, Nat.mod_mul_right_div_self]
    exact Nat.mod_mod_of_dvd _ (pow_dvd_pow 2 (by omega))
  interval_cases k <;> simp only [bytes64] <;> exact key _ (by omega)

/-- A word of the extension keeps its place, counted from the end, when more words follow. -/
theorem extendSchedule_place (b : List Byte) (n : Nat) (hn : n ≤ 64) (k : Nat) :
    (extendSchedule 64 (firstWords b)).getD (64 - n + k) 0 = (extendSchedule n (firstWords b)).getD k 0 := by
  have e : extendSchedule 64 (firstWords b) = extendSchedule (64 - n) (extendSchedule n (firstWords b)) := by
    rw [← extendSchedule_add]; congr 1; omega
  rw [e]
  conv_rhs => rw [← extendSchedule_drop (64 - n) (extendSchedule n (firstWords b))]
  simp [List.getD, List.getElem?_drop]

/-- The words 0..15 of the expansion are the block's (42_schedule.md R160). -/
theorem expand_first (b : List Byte) (j : Nat) (hj : j < 16) : (expand b)[j] = blockWord b j := by
  rw [expand_getElem, show 79 - j = 64 - 0 + (15 - j) by omega, extendSchedule_place b 0 (by omega)]
  simp [extendSchedule, firstWords, List.getD, show 15 - j < 16 by omega]
  congr 1; omega

/-- The words 16..79 follow the recurrence (R160). -/
theorem expand_rec (b : List Byte) (j : Nat) (hj : j + 16 < 80) : (expand b)[j + 16] =
    rotl32 ((expand b)[j + 13] ^^^ (expand b)[j + 8] ^^^ (expand b)[j + 2] ^^^ (expand b)[j]) 1 := by
  have g (m : Nat) (hm : m < 16 + j) : (expand b)[m] = (extendSchedule j (firstWords b)).getD (15 + j - m) 0 := by
    rw [expand_getElem, ← extendSchedule_place b j (by omega)]
    congr 1; omega
  rw [expand_getElem, show 79 - (j + 16) = 64 - (j + 1) + 0 by omega, extendSchedule_place b (j + 1) (by omega),
    extendSchedule_succ, g _ (by omega), g _ (by omega), g _ (by omega), g _ (by omega)]
  simp only [List.getD_cons_zero, nextScheduleWord]
  rw [show 15 + j - (j + 13) = 2 by omega, show 15 + j - (j + 8) = 7 by omega,
    show 15 + j - (j + 2) = 13 by omega, show 15 + j - j = 15 by omega]

/-- The first n rounds, one after the other. -/
theorem rounds_prefix (w : Vector Word 80) (q : Nat → Quint)
    (hq : ∀ (i : Nat) (hi : i < 80), q (i + 1) = roundStep ⟨i, hi⟩ (q i) w[i]) (n : Nat) (hn : n ≤ 80) :
    ((List.finRange n).map (Fin.castLE hn)).foldl (fun q i => roundStep i q w[i]) (q 0) = q n := by
  induction n with
  | zero => rfl
  | succ n ih =>
    have e : (Fin.castLE hn ∘ Fin.castSucc : Fin n → Fin 80) = Fin.castLE (by omega) := by ext; rfl
    rw [List.finRange_succ_last, List.map_append, List.foldl_append, List.map_map, e, ih (by omega), hq n (by omega)]
    rfl

/-- The 80 rounds are the last of any sequence that follows the round function (43_compression.md R171). -/
theorem rounds_eq (w : Vector Word 80) (q : Nat → Quint)
    (hq : ∀ (i : Nat) (hi : i < 80), q (i + 1) = roundStep ⟨i, hi⟩ (q i) w[i]) : rounds w (q 0) = q 80 := by
  rw [← rounds_prefix w q hq 80 le_rfl, rounds]
  congr 1

/-- `hashBlocks` is the last of any sequence that follows R180's loop. -/
theorem hashBlocks_eq (n : Nat) (p : List Byte) (q : Nat → Quint)
    (hq : ∀ b, b < n + 1 → q (b + 1) = (compress (q b) (expand ((p.drop (64 * b)).take 64))).1) :
    hashBlocks n (q 0) p = hashBlock (q n) ((p.drop (64 * n)).take 64) := by
  induction n generalizing p q with
  | zero => rfl
  | succ n ih =>
    have e : (hashBlock (q 0) (p.take 64)).h = q 1 := (hq 0 (by omega)).symm
    have h := ih (p.drop 64) (fun b => q (b + 1)) fun b hb => by
      show q (b + 1 + 1) = _
      rw [hq (b + 1) (by omega), List.drop_drop, show 64 + 64 * b = 64 * (b + 1) by omega]
    rw [List.drop_drop, show 64 + 64 * n = 64 * (n + 1) by omega] at h
    simp only [hashBlocks]
    rw [e]
    exact h

end Sys2Proof.Machine
end

