-- ==== Sys2Proof/Laws/State.lean ====
section
/-! SUPPORT. One lemma per field and named update of State, so that no later proof unfolds an update. -/

namespace Sys2Proof.Machine

@[simp] theorem State.recordError_params (c : ErrCode) (s : State) : (s.recordError c).params = s.params := rfl
@[simp] theorem State.recordError_cmd (c : ErrCode) (s : State) : (s.recordError c).cmd = s.cmd := rfl
@[simp] theorem State.recordError_pend (c : ErrCode) (s : State) : (s.recordError c).pend = s.pend := rfl
@[simp] theorem State.recordError_busy (c : ErrCode) (s : State) : (s.recordError c).busy = s.busy := rfl
@[simp] theorem State.recordError_done (c : ErrCode) (s : State) : (s.recordError c).done = s.done := rfl
@[simp] theorem State.recordError_err (c : ErrCode) (s : State) : (s.recordError c).err = true := rfl
@[simp] theorem State.recordError_inplace (c : ErrCode) (s : State) : (s.recordError c).inplace = s.inplace := rfl
@[simp] theorem State.recordError_phase (c : ErrCode) (s : State) : (s.recordError c).phase = s.phase := rfl
@[simp] theorem State.recordError_errCode (c : ErrCode) (s : State) : (s.recordError c).errCode = if s.err then s.errCode else c := rfl
@[simp] theorem State.recordError_ieDone (c : ErrCode) (s : State) : (s.recordError c).ieDone = s.ieDone := rfl
@[simp] theorem State.recordError_ieErr (c : ErrCode) (s : State) : (s.recordError c).ieErr = s.ieErr := rfl
@[simp] theorem State.recordError_msgLen (c : ErrCode) (s : State) : (s.recordError c).msgLen = s.msgLen := rfl
@[simp] theorem State.recordError_keyLen (c : ErrCode) (s : State) : (s.recordError c).keyLen = s.keyLen := rfl
@[simp] theorem State.recordError_blkOff (c : ErrCode) (s : State) : (s.recordError c).blkOff = s.blkOff := rfl
@[simp] theorem State.recordError_blkIdx (c : ErrCode) (s : State) : (s.recordError c).blkIdx = s.blkIdx := rfl
@[simp] theorem State.recordError_origLen (c : ErrCode) (s : State) : (s.recordError c).origLen = s.origLen := rfl
@[simp] theorem State.recordError_h (c : ErrCode) (s : State) : (s.recordError c).h = s.h := rfl
@[simp] theorem State.recordError_v (c : ErrCode) (s : State) : (s.recordError c).v = s.v := rfl
@[simp] theorem State.recordError_w (c : ErrCode) (s : State) : (s.recordError c).w = s.w := rfl
@[simp] theorem State.recordError_dg (c : ErrCode) (s : State) : (s.recordError c).dg = s.dg := rfl
@[simp] theorem State.recordError_keyMem (c : ErrCode) (s : State) : (s.recordError c).keyMem = s.keyMem := rfl
@[simp] theorem State.recordError_msgMem (c : ErrCode) (s : State) : (s.recordError c).msgMem = s.msgMem := rfl
@[simp] theorem State.recordError_resets (c : ErrCode) (s : State) : (s.recordError c).resets = s.resets := rfl
@[simp] theorem State.recordError_draws (c : ErrCode) (s : State) : (s.recordError c).draws = s.draws := rfl
@[simp] theorem State.recordError_script (c : ErrCode) (s : State) : (s.recordError c).script = s.script := rfl
@[simp] theorem State.recordError_schedule (c : ErrCode) (s : State) : (s.recordError c).schedule = s.schedule := rfl
@[simp] theorem State.recordError_reads (c : ErrCode) (s : State) : (s.recordError c).reads = s.reads := rfl

@[simp] theorem State.writeStatus_params (x : Word) (s : State) : (s.writeStatus x).params = s.params := rfl
@[simp] theorem State.writeStatus_cmd (x : Word) (s : State) : (s.writeStatus x).cmd = s.cmd := rfl
@[simp] theorem State.writeStatus_pend (x : Word) (s : State) : (s.writeStatus x).pend = s.pend := rfl
@[simp] theorem State.writeStatus_busy (x : Word) (s : State) : (s.writeStatus x).busy = s.busy := rfl
@[simp] theorem State.writeStatus_done (x : Word) (s : State) : (s.writeStatus x).done = (s.done && !x.getLsbD 1) := rfl
@[simp] theorem State.writeStatus_err (x : Word) (s : State) : (s.writeStatus x).err = (s.err && !x.getLsbD 2) := rfl
@[simp] theorem State.writeStatus_inplace (x : Word) (s : State) : (s.writeStatus x).inplace = s.inplace := rfl
@[simp] theorem State.writeStatus_phase (x : Word) (s : State) : (s.writeStatus x).phase = s.phase := rfl
@[simp] theorem State.writeStatus_errCode (x : Word) (s : State) : (s.writeStatus x).errCode = if x.getLsbD 2 then .none else s.errCode := rfl
@[simp] theorem State.writeStatus_ieDone (x : Word) (s : State) : (s.writeStatus x).ieDone = s.ieDone := rfl
@[simp] theorem State.writeStatus_ieErr (x : Word) (s : State) : (s.writeStatus x).ieErr = s.ieErr := rfl
@[simp] theorem State.writeStatus_msgLen (x : Word) (s : State) : (s.writeStatus x).msgLen = s.msgLen := rfl
@[simp] theorem State.writeStatus_keyLen (x : Word) (s : State) : (s.writeStatus x).keyLen = s.keyLen := rfl
@[simp] theorem State.writeStatus_blkOff (x : Word) (s : State) : (s.writeStatus x).blkOff = s.blkOff := rfl
@[simp] theorem State.writeStatus_blkIdx (x : Word) (s : State) : (s.writeStatus x).blkIdx = s.blkIdx := rfl
@[simp] theorem State.writeStatus_origLen (x : Word) (s : State) : (s.writeStatus x).origLen = s.origLen := rfl
@[simp] theorem State.writeStatus_h (x : Word) (s : State) : (s.writeStatus x).h = s.h := rfl
@[simp] theorem State.writeStatus_v (x : Word) (s : State) : (s.writeStatus x).v = s.v := rfl
@[simp] theorem State.writeStatus_w (x : Word) (s : State) : (s.writeStatus x).w = s.w := rfl
@[simp] theorem State.writeStatus_dg (x : Word) (s : State) : (s.writeStatus x).dg = s.dg := rfl
@[simp] theorem State.writeStatus_keyMem (x : Word) (s : State) : (s.writeStatus x).keyMem = s.keyMem := rfl
@[simp] theorem State.writeStatus_msgMem (x : Word) (s : State) : (s.writeStatus x).msgMem = s.msgMem := rfl
@[simp] theorem State.writeStatus_resets (x : Word) (s : State) : (s.writeStatus x).resets = s.resets := rfl
@[simp] theorem State.writeStatus_draws (x : Word) (s : State) : (s.writeStatus x).draws = s.draws := rfl
@[simp] theorem State.writeStatus_script (x : Word) (s : State) : (s.writeStatus x).script = s.script := rfl
@[simp] theorem State.writeStatus_schedule (x : Word) (s : State) : (s.writeStatus x).schedule = s.schedule := rfl
@[simp] theorem State.writeStatus_reads (x : Word) (s : State) : (s.writeStatus x).reads = s.reads := rfl

@[simp] theorem State.writeCtrl_params (x : Word) (s : State) : (s.writeCtrl x).params = s.params := rfl
@[simp] theorem State.writeCtrl_cmd (x : Word) (s : State) : (s.writeCtrl x).cmd = s.cmd := rfl
@[simp] theorem State.writeCtrl_pend (x : Word) (s : State) : (s.writeCtrl x).pend = s.pend := rfl
@[simp] theorem State.writeCtrl_busy (x : Word) (s : State) : (s.writeCtrl x).busy = s.busy := rfl
@[simp] theorem State.writeCtrl_done (x : Word) (s : State) : (s.writeCtrl x).done = s.done := rfl
@[simp] theorem State.writeCtrl_err (x : Word) (s : State) : (s.writeCtrl x).err = s.err := rfl
@[simp] theorem State.writeCtrl_inplace (x : Word) (s : State) : (s.writeCtrl x).inplace = s.inplace := rfl
@[simp] theorem State.writeCtrl_phase (x : Word) (s : State) : (s.writeCtrl x).phase = s.phase := rfl
@[simp] theorem State.writeCtrl_errCode (x : Word) (s : State) : (s.writeCtrl x).errCode = s.errCode := rfl
@[simp] theorem State.writeCtrl_ieDone (x : Word) (s : State) : (s.writeCtrl x).ieDone = x.getLsbD 0 := rfl
@[simp] theorem State.writeCtrl_ieErr (x : Word) (s : State) : (s.writeCtrl x).ieErr = x.getLsbD 1 := rfl
@[simp] theorem State.writeCtrl_msgLen (x : Word) (s : State) : (s.writeCtrl x).msgLen = s.msgLen := rfl
@[simp] theorem State.writeCtrl_keyLen (x : Word) (s : State) : (s.writeCtrl x).keyLen = s.keyLen := rfl
@[simp] theorem State.writeCtrl_blkOff (x : Word) (s : State) : (s.writeCtrl x).blkOff = s.blkOff := rfl
@[simp] theorem State.writeCtrl_blkIdx (x : Word) (s : State) : (s.writeCtrl x).blkIdx = s.blkIdx := rfl
@[simp] theorem State.writeCtrl_origLen (x : Word) (s : State) : (s.writeCtrl x).origLen = s.origLen := rfl
@[simp] theorem State.writeCtrl_h (x : Word) (s : State) : (s.writeCtrl x).h = s.h := rfl
@[simp] theorem State.writeCtrl_v (x : Word) (s : State) : (s.writeCtrl x).v = s.v := rfl
@[simp] theorem State.writeCtrl_w (x : Word) (s : State) : (s.writeCtrl x).w = s.w := rfl
@[simp] theorem State.writeCtrl_dg (x : Word) (s : State) : (s.writeCtrl x).dg = s.dg := rfl
@[simp] theorem State.writeCtrl_keyMem (x : Word) (s : State) : (s.writeCtrl x).keyMem = s.keyMem := rfl
@[simp] theorem State.writeCtrl_msgMem (x : Word) (s : State) : (s.writeCtrl x).msgMem = s.msgMem := rfl
@[simp] theorem State.writeCtrl_resets (x : Word) (s : State) : (s.writeCtrl x).resets = s.resets := rfl
@[simp] theorem State.writeCtrl_draws (x : Word) (s : State) : (s.writeCtrl x).draws = s.draws := rfl
@[simp] theorem State.writeCtrl_script (x : Word) (s : State) : (s.writeCtrl x).script = s.script := rfl
@[simp] theorem State.writeCtrl_schedule (x : Word) (s : State) : (s.writeCtrl x).schedule = s.schedule := rfl
@[simp] theorem State.writeCtrl_reads (x : Word) (s : State) : (s.writeCtrl x).reads = s.reads := rfl

@[simp] theorem State.memWrite_params (a : Nat) (bs : List Byte) (s : State) : (s.memWrite a bs).params = s.params := rfl
@[simp] theorem State.memWrite_cmd (a : Nat) (bs : List Byte) (s : State) : (s.memWrite a bs).cmd = s.cmd := rfl
@[simp] theorem State.memWrite_pend (a : Nat) (bs : List Byte) (s : State) : (s.memWrite a bs).pend = s.pend := rfl
@[simp] theorem State.memWrite_busy (a : Nat) (bs : List Byte) (s : State) : (s.memWrite a bs).busy = s.busy := rfl
@[simp] theorem State.memWrite_done (a : Nat) (bs : List Byte) (s : State) : (s.memWrite a bs).done = s.done := rfl
@[simp] theorem State.memWrite_err (a : Nat) (bs : List Byte) (s : State) : (s.memWrite a bs).err = s.err := rfl
@[simp] theorem State.memWrite_inplace (a : Nat) (bs : List Byte) (s : State) : (s.memWrite a bs).inplace = s.inplace := rfl
@[simp] theorem State.memWrite_phase (a : Nat) (bs : List Byte) (s : State) : (s.memWrite a bs).phase = s.phase := rfl
@[simp] theorem State.memWrite_errCode (a : Nat) (bs : List Byte) (s : State) : (s.memWrite a bs).errCode = s.errCode := rfl
@[simp] theorem State.memWrite_ieDone (a : Nat) (bs : List Byte) (s : State) : (s.memWrite a bs).ieDone = s.ieDone := rfl
@[simp] theorem State.memWrite_ieErr (a : Nat) (bs : List Byte) (s : State) : (s.memWrite a bs).ieErr = s.ieErr := rfl
@[simp] theorem State.memWrite_msgLen (a : Nat) (bs : List Byte) (s : State) : (s.memWrite a bs).msgLen = s.msgLen := rfl
@[simp] theorem State.memWrite_keyLen (a : Nat) (bs : List Byte) (s : State) : (s.memWrite a bs).keyLen = s.keyLen := rfl
@[simp] theorem State.memWrite_blkOff (a : Nat) (bs : List Byte) (s : State) : (s.memWrite a bs).blkOff = s.blkOff := rfl
@[simp] theorem State.memWrite_blkIdx (a : Nat) (bs : List Byte) (s : State) : (s.memWrite a bs).blkIdx = s.blkIdx := rfl
@[simp] theorem State.memWrite_origLen (a : Nat) (bs : List Byte) (s : State) : (s.memWrite a bs).origLen = s.origLen := rfl
@[simp] theorem State.memWrite_h (a : Nat) (bs : List Byte) (s : State) : (s.memWrite a bs).h = s.h := rfl
@[simp] theorem State.memWrite_v (a : Nat) (bs : List Byte) (s : State) : (s.memWrite a bs).v = s.v := rfl
@[simp] theorem State.memWrite_w (a : Nat) (bs : List Byte) (s : State) : (s.memWrite a bs).w = s.w := rfl
@[simp] theorem State.memWrite_dg (a : Nat) (bs : List Byte) (s : State) : (s.memWrite a bs).dg = s.dg := rfl
@[simp] theorem State.memWrite_keyMem (a : Nat) (bs : List Byte) (s : State) : (s.memWrite a bs).keyMem = s.keyMem := rfl
@[simp] theorem State.memWrite_msgMem (a : Nat) (bs : List Byte) (s : State) : (s.memWrite a bs).msgMem = s.msgMem.writeBytes a bs := rfl
@[simp] theorem State.memWrite_resets (a : Nat) (bs : List Byte) (s : State) : (s.memWrite a bs).resets = s.resets := rfl
@[simp] theorem State.memWrite_draws (a : Nat) (bs : List Byte) (s : State) : (s.memWrite a bs).draws = s.draws := rfl
@[simp] theorem State.memWrite_script (a : Nat) (bs : List Byte) (s : State) : (s.memWrite a bs).script = s.script := rfl
@[simp] theorem State.memWrite_schedule (a : Nat) (bs : List Byte) (s : State) : (s.memWrite a bs).schedule = s.schedule := rfl
@[simp] theorem State.memWrite_reads (a : Nat) (bs : List Byte) (s : State) : (s.memWrite a bs).reads = s.reads := rfl

@[simp] theorem State.keyWrite_params (a : Nat) (bs : List Byte) (s : State) : (s.keyWrite a bs).params = s.params := rfl
@[simp] theorem State.keyWrite_cmd (a : Nat) (bs : List Byte) (s : State) : (s.keyWrite a bs).cmd = s.cmd := rfl
@[simp] theorem State.keyWrite_pend (a : Nat) (bs : List Byte) (s : State) : (s.keyWrite a bs).pend = s.pend := rfl
@[simp] theorem State.keyWrite_busy (a : Nat) (bs : List Byte) (s : State) : (s.keyWrite a bs).busy = s.busy := rfl
@[simp] theorem State.keyWrite_done (a : Nat) (bs : List Byte) (s : State) : (s.keyWrite a bs).done = s.done := rfl
@[simp] theorem State.keyWrite_err (a : Nat) (bs : List Byte) (s : State) : (s.keyWrite a bs).err = s.err := rfl
@[simp] theorem State.keyWrite_inplace (a : Nat) (bs : List Byte) (s : State) : (s.keyWrite a bs).inplace = s.inplace := rfl
@[simp] theorem State.keyWrite_phase (a : Nat) (bs : List Byte) (s : State) : (s.keyWrite a bs).phase = s.phase := rfl
@[simp] theorem State.keyWrite_errCode (a : Nat) (bs : List Byte) (s : State) : (s.keyWrite a bs).errCode = s.errCode := rfl
@[simp] theorem State.keyWrite_ieDone (a : Nat) (bs : List Byte) (s : State) : (s.keyWrite a bs).ieDone = s.ieDone := rfl
@[simp] theorem State.keyWrite_ieErr (a : Nat) (bs : List Byte) (s : State) : (s.keyWrite a bs).ieErr = s.ieErr := rfl
@[simp] theorem State.keyWrite_msgLen (a : Nat) (bs : List Byte) (s : State) : (s.keyWrite a bs).msgLen = s.msgLen := rfl
@[simp] theorem State.keyWrite_keyLen (a : Nat) (bs : List Byte) (s : State) : (s.keyWrite a bs).keyLen = s.keyLen := rfl
@[simp] theorem State.keyWrite_blkOff (a : Nat) (bs : List Byte) (s : State) : (s.keyWrite a bs).blkOff = s.blkOff := rfl
@[simp] theorem State.keyWrite_blkIdx (a : Nat) (bs : List Byte) (s : State) : (s.keyWrite a bs).blkIdx = s.blkIdx := rfl
@[simp] theorem State.keyWrite_origLen (a : Nat) (bs : List Byte) (s : State) : (s.keyWrite a bs).origLen = s.origLen := rfl
@[simp] theorem State.keyWrite_h (a : Nat) (bs : List Byte) (s : State) : (s.keyWrite a bs).h = s.h := rfl
@[simp] theorem State.keyWrite_v (a : Nat) (bs : List Byte) (s : State) : (s.keyWrite a bs).v = s.v := rfl
@[simp] theorem State.keyWrite_w (a : Nat) (bs : List Byte) (s : State) : (s.keyWrite a bs).w = s.w := rfl
@[simp] theorem State.keyWrite_dg (a : Nat) (bs : List Byte) (s : State) : (s.keyWrite a bs).dg = s.dg := rfl
@[simp] theorem State.keyWrite_keyMem (a : Nat) (bs : List Byte) (s : State) : (s.keyWrite a bs).keyMem = s.keyMem.writeBytes a bs := rfl
@[simp] theorem State.keyWrite_msgMem (a : Nat) (bs : List Byte) (s : State) : (s.keyWrite a bs).msgMem = s.msgMem := rfl
@[simp] theorem State.keyWrite_resets (a : Nat) (bs : List Byte) (s : State) : (s.keyWrite a bs).resets = s.resets := rfl
@[simp] theorem State.keyWrite_draws (a : Nat) (bs : List Byte) (s : State) : (s.keyWrite a bs).draws = s.draws := rfl
@[simp] theorem State.keyWrite_script (a : Nat) (bs : List Byte) (s : State) : (s.keyWrite a bs).script = s.script := rfl
@[simp] theorem State.keyWrite_schedule (a : Nat) (bs : List Byte) (s : State) : (s.keyWrite a bs).schedule = s.schedule := rfl
@[simp] theorem State.keyWrite_reads (a : Nat) (bs : List Byte) (s : State) : (s.keyWrite a bs).reads = s.reads := rfl

@[simp] theorem State.issue_params (x : Word) (s : State) : (s.issue x).params = s.params := rfl
@[simp] theorem State.issue_cmd (x : Word) (s : State) : (s.issue x).cmd = x := rfl
@[simp] theorem State.issue_pend (x : Word) (s : State) : (s.issue x).pend = some x := rfl
@[simp] theorem State.issue_busy (x : Word) (s : State) : (s.issue x).busy = true := rfl
@[simp] theorem State.issue_done (x : Word) (s : State) : (s.issue x).done = false := rfl
@[simp] theorem State.issue_err (x : Word) (s : State) : (s.issue x).err = s.err := rfl
@[simp] theorem State.issue_inplace (x : Word) (s : State) : (s.issue x).inplace = s.inplace := rfl
@[simp] theorem State.issue_phase (x : Word) (s : State) : (s.issue x).phase = s.phase := rfl
@[simp] theorem State.issue_errCode (x : Word) (s : State) : (s.issue x).errCode = s.errCode := rfl
@[simp] theorem State.issue_ieDone (x : Word) (s : State) : (s.issue x).ieDone = s.ieDone := rfl
@[simp] theorem State.issue_ieErr (x : Word) (s : State) : (s.issue x).ieErr = s.ieErr := rfl
@[simp] theorem State.issue_msgLen (x : Word) (s : State) : (s.issue x).msgLen = s.msgLen := rfl
@[simp] theorem State.issue_keyLen (x : Word) (s : State) : (s.issue x).keyLen = s.keyLen := rfl
@[simp] theorem State.issue_blkOff (x : Word) (s : State) : (s.issue x).blkOff = s.blkOff := rfl
@[simp] theorem State.issue_blkIdx (x : Word) (s : State) : (s.issue x).blkIdx = s.blkIdx := rfl
@[simp] theorem State.issue_origLen (x : Word) (s : State) : (s.issue x).origLen = s.origLen := rfl
@[simp] theorem State.issue_h (x : Word) (s : State) : (s.issue x).h = s.h := rfl
@[simp] theorem State.issue_v (x : Word) (s : State) : (s.issue x).v = s.v := rfl
@[simp] theorem State.issue_w (x : Word) (s : State) : (s.issue x).w = s.w := rfl
@[simp] theorem State.issue_dg (x : Word) (s : State) : (s.issue x).dg = s.dg := rfl
@[simp] theorem State.issue_keyMem (x : Word) (s : State) : (s.issue x).keyMem = s.keyMem := rfl
@[simp] theorem State.issue_msgMem (x : Word) (s : State) : (s.issue x).msgMem = s.msgMem := rfl
@[simp] theorem State.issue_resets (x : Word) (s : State) : (s.issue x).resets = s.resets := rfl
@[simp] theorem State.issue_draws (x : Word) (s : State) : (s.issue x).draws = s.draws := rfl
@[simp] theorem State.issue_script (x : Word) (s : State) : (s.issue x).script = s.script := rfl
@[simp] theorem State.issue_schedule (x : Word) (s : State) : (s.issue x).schedule = s.schedule := rfl
@[simp] theorem State.issue_reads (x : Word) (s : State) : (s.issue x).reads = s.reads := rfl

@[simp] theorem State.complete_params (s : State) : (s.complete).params = s.params := rfl
@[simp] theorem State.complete_cmd (s : State) : (s.complete).cmd = s.cmd := rfl
@[simp] theorem State.complete_pend (s : State) : (s.complete).pend = none := rfl
@[simp] theorem State.complete_busy (s : State) : (s.complete).busy = false := rfl
@[simp] theorem State.complete_done (s : State) : (s.complete).done = true := rfl
@[simp] theorem State.complete_err (s : State) : (s.complete).err = s.err := rfl
@[simp] theorem State.complete_inplace (s : State) : (s.complete).inplace = s.inplace := rfl
@[simp] theorem State.complete_phase (s : State) : (s.complete).phase = s.phase := rfl
@[simp] theorem State.complete_errCode (s : State) : (s.complete).errCode = s.errCode := rfl
@[simp] theorem State.complete_ieDone (s : State) : (s.complete).ieDone = s.ieDone := rfl
@[simp] theorem State.complete_ieErr (s : State) : (s.complete).ieErr = s.ieErr := rfl
@[simp] theorem State.complete_msgLen (s : State) : (s.complete).msgLen = s.msgLen := rfl
@[simp] theorem State.complete_keyLen (s : State) : (s.complete).keyLen = s.keyLen := rfl
@[simp] theorem State.complete_blkOff (s : State) : (s.complete).blkOff = s.blkOff := rfl
@[simp] theorem State.complete_blkIdx (s : State) : (s.complete).blkIdx = s.blkIdx := rfl
@[simp] theorem State.complete_origLen (s : State) : (s.complete).origLen = s.origLen := rfl
@[simp] theorem State.complete_h (s : State) : (s.complete).h = s.h := rfl
@[simp] theorem State.complete_v (s : State) : (s.complete).v = s.v := rfl
@[simp] theorem State.complete_w (s : State) : (s.complete).w = s.w := rfl
@[simp] theorem State.complete_dg (s : State) : (s.complete).dg = s.dg := rfl
@[simp] theorem State.complete_keyMem (s : State) : (s.complete).keyMem = s.keyMem := rfl
@[simp] theorem State.complete_msgMem (s : State) : (s.complete).msgMem = s.msgMem := rfl
@[simp] theorem State.complete_resets (s : State) : (s.complete).resets = s.resets := rfl
@[simp] theorem State.complete_draws (s : State) : (s.complete).draws = s.draws := rfl
@[simp] theorem State.complete_script (s : State) : (s.complete).script = s.script := rfl
@[simp] theorem State.complete_schedule (s : State) : (s.complete).schedule = s.schedule := rfl
@[simp] theorem State.complete_reads (s : State) : (s.complete).reads = s.reads := rfl

@[simp] theorem State.fail_params (c : ErrCode) (s : State) : (s.fail c).params = s.params := by simp only [State.fail, State.complete_params, State.recordError_params]
@[simp] theorem State.fail_cmd (c : ErrCode) (s : State) : (s.fail c).cmd = s.cmd := by simp only [State.fail, State.complete_cmd, State.recordError_cmd]
@[simp] theorem State.fail_pend (c : ErrCode) (s : State) : (s.fail c).pend = none := by simp only [State.fail, State.complete_pend]
@[simp] theorem State.fail_busy (c : ErrCode) (s : State) : (s.fail c).busy = false := by simp only [State.fail, State.complete_busy]
@[simp] theorem State.fail_done (c : ErrCode) (s : State) : (s.fail c).done = true := by simp only [State.fail, State.complete_done]
@[simp] theorem State.fail_err (c : ErrCode) (s : State) : (s.fail c).err = true := by simp only [State.fail, State.complete_err, State.recordError_err]
@[simp] theorem State.fail_inplace (c : ErrCode) (s : State) : (s.fail c).inplace = s.inplace := by simp only [State.fail, State.complete_inplace, State.recordError_inplace]
@[simp] theorem State.fail_phase (c : ErrCode) (s : State) : (s.fail c).phase = s.phase := by simp only [State.fail, State.complete_phase, State.recordError_phase]
@[simp] theorem State.fail_errCode (c : ErrCode) (s : State) : (s.fail c).errCode = if s.err then s.errCode else c := by simp only [State.fail, State.complete_errCode, State.recordError_errCode]
@[simp] theorem State.fail_ieDone (c : ErrCode) (s : State) : (s.fail c).ieDone = s.ieDone := by simp only [State.fail, State.complete_ieDone, State.recordError_ieDone]
@[simp] theorem State.fail_ieErr (c : ErrCode) (s : State) : (s.fail c).ieErr = s.ieErr := by simp only [State.fail, State.complete_ieErr, State.recordError_ieErr]
@[simp] theorem State.fail_msgLen (c : ErrCode) (s : State) : (s.fail c).msgLen = s.msgLen := by simp only [State.fail, State.complete_msgLen, State.recordError_msgLen]
@[simp] theorem State.fail_keyLen (c : ErrCode) (s : State) : (s.fail c).keyLen = s.keyLen := by simp only [State.fail, State.complete_keyLen, State.recordError_keyLen]
@[simp] theorem State.fail_blkOff (c : ErrCode) (s : State) : (s.fail c).blkOff = s.blkOff := by simp only [State.fail, State.complete_blkOff, State.recordError_blkOff]
@[simp] theorem State.fail_blkIdx (c : ErrCode) (s : State) : (s.fail c).blkIdx = s.blkIdx := by simp only [State.fail, State.complete_blkIdx, State.recordError_blkIdx]
@[simp] theorem State.fail_origLen (c : ErrCode) (s : State) : (s.fail c).origLen = s.origLen := by simp only [State.fail, State.complete_origLen, State.recordError_origLen]
@[simp] theorem State.fail_h (c : ErrCode) (s : State) : (s.fail c).h = s.h := by simp only [State.fail, State.complete_h, State.recordError_h]
@[simp] theorem State.fail_v (c : ErrCode) (s : State) : (s.fail c).v = s.v := by simp only [State.fail, State.complete_v, State.recordError_v]
@[simp] theorem State.fail_w (c : ErrCode) (s : State) : (s.fail c).w = s.w := by simp only [State.fail, State.complete_w, State.recordError_w]
@[simp] theorem State.fail_dg (c : ErrCode) (s : State) : (s.fail c).dg = s.dg := by simp only [State.fail, State.complete_dg, State.recordError_dg]
@[simp] theorem State.fail_keyMem (c : ErrCode) (s : State) : (s.fail c).keyMem = s.keyMem := by simp only [State.fail, State.complete_keyMem, State.recordError_keyMem]
@[simp] theorem State.fail_msgMem (c : ErrCode) (s : State) : (s.fail c).msgMem = s.msgMem := by simp only [State.fail, State.complete_msgMem, State.recordError_msgMem]
@[simp] theorem State.fail_resets (c : ErrCode) (s : State) : (s.fail c).resets = s.resets := by simp only [State.fail, State.complete_resets, State.recordError_resets]
@[simp] theorem State.fail_draws (c : ErrCode) (s : State) : (s.fail c).draws = s.draws := by simp only [State.fail, State.complete_draws, State.recordError_draws]
@[simp] theorem State.fail_script (c : ErrCode) (s : State) : (s.fail c).script = s.script := by simp only [State.fail, State.complete_script, State.recordError_script]
@[simp] theorem State.fail_schedule (c : ErrCode) (s : State) : (s.fail c).schedule = s.schedule := by simp only [State.fail, State.complete_schedule, State.recordError_schedule]
@[simp] theorem State.fail_reads (c : ErrCode) (s : State) : (s.fail c).reads = s.reads := by simp only [State.fail, State.complete_reads, State.recordError_reads]

@[simp] theorem State.advanceWith_params (r : BlockResult) (s : State) : (s.advanceWith r).params = s.params := rfl
@[simp] theorem State.advanceWith_cmd (r : BlockResult) (s : State) : (s.advanceWith r).cmd = s.cmd := rfl
@[simp] theorem State.advanceWith_pend (r : BlockResult) (s : State) : (s.advanceWith r).pend = s.pend := rfl
@[simp] theorem State.advanceWith_busy (r : BlockResult) (s : State) : (s.advanceWith r).busy = s.busy := rfl
@[simp] theorem State.advanceWith_done (r : BlockResult) (s : State) : (s.advanceWith r).done = s.done := rfl
@[simp] theorem State.advanceWith_err (r : BlockResult) (s : State) : (s.advanceWith r).err = s.err := rfl
@[simp] theorem State.advanceWith_inplace (r : BlockResult) (s : State) : (s.advanceWith r).inplace = s.inplace := rfl
@[simp] theorem State.advanceWith_phase (r : BlockResult) (s : State) : (s.advanceWith r).phase = s.phase := rfl
@[simp] theorem State.advanceWith_errCode (r : BlockResult) (s : State) : (s.advanceWith r).errCode = s.errCode := rfl
@[simp] theorem State.advanceWith_ieDone (r : BlockResult) (s : State) : (s.advanceWith r).ieDone = s.ieDone := rfl
@[simp] theorem State.advanceWith_ieErr (r : BlockResult) (s : State) : (s.advanceWith r).ieErr = s.ieErr := rfl
@[simp] theorem State.advanceWith_msgLen (r : BlockResult) (s : State) : (s.advanceWith r).msgLen = s.msgLen := rfl
@[simp] theorem State.advanceWith_keyLen (r : BlockResult) (s : State) : (s.advanceWith r).keyLen = s.keyLen := rfl
@[simp] theorem State.advanceWith_blkOff (r : BlockResult) (s : State) : (s.advanceWith r).blkOff = s.blkOff := rfl
@[simp] theorem State.advanceWith_blkIdx (r : BlockResult) (s : State) : (s.advanceWith r).blkIdx = s.blkIdx + 1 := rfl
@[simp] theorem State.advanceWith_origLen (r : BlockResult) (s : State) : (s.advanceWith r).origLen = s.origLen := rfl
@[simp] theorem State.advanceWith_h (r : BlockResult) (s : State) : (s.advanceWith r).h = r.h := rfl
@[simp] theorem State.advanceWith_v (r : BlockResult) (s : State) : (s.advanceWith r).v = r.v := rfl
@[simp] theorem State.advanceWith_w (r : BlockResult) (s : State) : (s.advanceWith r).w = r.w := rfl
@[simp] theorem State.advanceWith_dg (r : BlockResult) (s : State) : (s.advanceWith r).dg = s.dg := rfl
@[simp] theorem State.advanceWith_keyMem (r : BlockResult) (s : State) : (s.advanceWith r).keyMem = s.keyMem := rfl
@[simp] theorem State.advanceWith_msgMem (r : BlockResult) (s : State) : (s.advanceWith r).msgMem = s.msgMem := rfl
@[simp] theorem State.advanceWith_resets (r : BlockResult) (s : State) : (s.advanceWith r).resets = s.resets := rfl
@[simp] theorem State.advanceWith_draws (r : BlockResult) (s : State) : (s.advanceWith r).draws = s.draws := rfl
@[simp] theorem State.advanceWith_script (r : BlockResult) (s : State) : (s.advanceWith r).script = s.script := rfl
@[simp] theorem State.advanceWith_schedule (r : BlockResult) (s : State) : (s.advanceWith r).schedule = s.schedule := rfl
@[simp] theorem State.advanceWith_reads (r : BlockResult) (s : State) : (s.advanceWith r).reads = s.reads := rfl

@[simp] theorem State.finalizeWith_params (r : BlockResult) (n : Nat) (s : State) : (s.finalizeWith r n).params = s.params := rfl
@[simp] theorem State.finalizeWith_cmd (r : BlockResult) (n : Nat) (s : State) : (s.finalizeWith r n).cmd = s.cmd := rfl
@[simp] theorem State.finalizeWith_pend (r : BlockResult) (n : Nat) (s : State) : (s.finalizeWith r n).pend = s.pend := rfl
@[simp] theorem State.finalizeWith_busy (r : BlockResult) (n : Nat) (s : State) : (s.finalizeWith r n).busy = s.busy := rfl
@[simp] theorem State.finalizeWith_done (r : BlockResult) (n : Nat) (s : State) : (s.finalizeWith r n).done = s.done := rfl
@[simp] theorem State.finalizeWith_err (r : BlockResult) (n : Nat) (s : State) : (s.finalizeWith r n).err = s.err := rfl
@[simp] theorem State.finalizeWith_inplace (r : BlockResult) (n : Nat) (s : State) : (s.finalizeWith r n).inplace = s.inplace := rfl
@[simp] theorem State.finalizeWith_phase (r : BlockResult) (n : Nat) (s : State) : (s.finalizeWith r n).phase = .finalized := rfl
@[simp] theorem State.finalizeWith_errCode (r : BlockResult) (n : Nat) (s : State) : (s.finalizeWith r n).errCode = s.errCode := rfl
@[simp] theorem State.finalizeWith_ieDone (r : BlockResult) (n : Nat) (s : State) : (s.finalizeWith r n).ieDone = s.ieDone := rfl
@[simp] theorem State.finalizeWith_ieErr (r : BlockResult) (n : Nat) (s : State) : (s.finalizeWith r n).ieErr = s.ieErr := rfl
@[simp] theorem State.finalizeWith_msgLen (r : BlockResult) (n : Nat) (s : State) : (s.finalizeWith r n).msgLen = s.msgLen := rfl
@[simp] theorem State.finalizeWith_keyLen (r : BlockResult) (n : Nat) (s : State) : (s.finalizeWith r n).keyLen = s.keyLen := rfl
@[simp] theorem State.finalizeWith_blkOff (r : BlockResult) (n : Nat) (s : State) : (s.finalizeWith r n).blkOff = s.blkOff := rfl
@[simp] theorem State.finalizeWith_blkIdx (r : BlockResult) (n : Nat) (s : State) : (s.finalizeWith r n).blkIdx = BitVec.ofNat 32 n := rfl
@[simp] theorem State.finalizeWith_origLen (r : BlockResult) (n : Nat) (s : State) : (s.finalizeWith r n).origLen = s.origLen := rfl
@[simp] theorem State.finalizeWith_h (r : BlockResult) (n : Nat) (s : State) : (s.finalizeWith r n).h = r.h := rfl
@[simp] theorem State.finalizeWith_v (r : BlockResult) (n : Nat) (s : State) : (s.finalizeWith r n).v = r.v := rfl
@[simp] theorem State.finalizeWith_w (r : BlockResult) (n : Nat) (s : State) : (s.finalizeWith r n).w = r.w := rfl
@[simp] theorem State.finalizeWith_dg (r : BlockResult) (n : Nat) (s : State) : (s.finalizeWith r n).dg = r.h := rfl
@[simp] theorem State.finalizeWith_keyMem (r : BlockResult) (n : Nat) (s : State) : (s.finalizeWith r n).keyMem = s.keyMem := rfl
@[simp] theorem State.finalizeWith_msgMem (r : BlockResult) (n : Nat) (s : State) : (s.finalizeWith r n).msgMem = s.msgMem := rfl
@[simp] theorem State.finalizeWith_resets (r : BlockResult) (n : Nat) (s : State) : (s.finalizeWith r n).resets = s.resets := rfl
@[simp] theorem State.finalizeWith_draws (r : BlockResult) (n : Nat) (s : State) : (s.finalizeWith r n).draws = s.draws := rfl
@[simp] theorem State.finalizeWith_script (r : BlockResult) (n : Nat) (s : State) : (s.finalizeWith r n).script = s.script := rfl
@[simp] theorem State.finalizeWith_schedule (r : BlockResult) (n : Nat) (s : State) : (s.finalizeWith r n).schedule = s.schedule := rfl
@[simp] theorem State.finalizeWith_reads (r : BlockResult) (n : Nat) (s : State) : (s.finalizeWith r n).reads = s.reads := rfl

@[simp] theorem State.storePadding_params (len : Nat) (s : State) : (s.storePadding len).params = s.params := by simp only [State.storePadding, State.memWrite_params]
@[simp] theorem State.storePadding_cmd (len : Nat) (s : State) : (s.storePadding len).cmd = s.cmd := by simp only [State.storePadding, State.memWrite_cmd]
@[simp] theorem State.storePadding_pend (len : Nat) (s : State) : (s.storePadding len).pend = s.pend := by simp only [State.storePadding, State.memWrite_pend]
@[simp] theorem State.storePadding_busy (len : Nat) (s : State) : (s.storePadding len).busy = s.busy := by simp only [State.storePadding, State.memWrite_busy]
@[simp] theorem State.storePadding_done (len : Nat) (s : State) : (s.storePadding len).done = s.done := by simp only [State.storePadding, State.memWrite_done]
@[simp] theorem State.storePadding_err (len : Nat) (s : State) : (s.storePadding len).err = s.err := by simp only [State.storePadding, State.memWrite_err]
@[simp] theorem State.storePadding_inplace (len : Nat) (s : State) : (s.storePadding len).inplace = s.inplace := by simp only [State.storePadding, State.memWrite_inplace]
@[simp] theorem State.storePadding_phase (len : Nat) (s : State) : (s.storePadding len).phase = s.phase := by simp only [State.storePadding, State.memWrite_phase]
@[simp] theorem State.storePadding_errCode (len : Nat) (s : State) : (s.storePadding len).errCode = s.errCode := by simp only [State.storePadding, State.memWrite_errCode]
@[simp] theorem State.storePadding_ieDone (len : Nat) (s : State) : (s.storePadding len).ieDone = s.ieDone := by simp only [State.storePadding, State.memWrite_ieDone]
@[simp] theorem State.storePadding_ieErr (len : Nat) (s : State) : (s.storePadding len).ieErr = s.ieErr := by simp only [State.storePadding, State.memWrite_ieErr]
@[simp] theorem State.storePadding_msgLen (len : Nat) (s : State) : (s.storePadding len).msgLen = s.msgLen := by simp only [State.storePadding, State.memWrite_msgLen]
@[simp] theorem State.storePadding_keyLen (len : Nat) (s : State) : (s.storePadding len).keyLen = s.keyLen := by simp only [State.storePadding, State.memWrite_keyLen]
@[simp] theorem State.storePadding_blkOff (len : Nat) (s : State) : (s.storePadding len).blkOff = s.blkOff := by simp only [State.storePadding, State.memWrite_blkOff]
@[simp] theorem State.storePadding_blkIdx (len : Nat) (s : State) : (s.storePadding len).blkIdx = s.blkIdx := by simp only [State.storePadding, State.memWrite_blkIdx]
@[simp] theorem State.storePadding_origLen (len : Nat) (s : State) : (s.storePadding len).origLen = s.origLen := by simp only [State.storePadding, State.memWrite_origLen]
@[simp] theorem State.storePadding_h (len : Nat) (s : State) : (s.storePadding len).h = s.h := by simp only [State.storePadding, State.memWrite_h]
@[simp] theorem State.storePadding_v (len : Nat) (s : State) : (s.storePadding len).v = s.v := by simp only [State.storePadding, State.memWrite_v]
@[simp] theorem State.storePadding_w (len : Nat) (s : State) : (s.storePadding len).w = s.w := by simp only [State.storePadding, State.memWrite_w]
@[simp] theorem State.storePadding_dg (len : Nat) (s : State) : (s.storePadding len).dg = s.dg := by simp only [State.storePadding, State.memWrite_dg]
@[simp] theorem State.storePadding_keyMem (len : Nat) (s : State) : (s.storePadding len).keyMem = s.keyMem := by simp only [State.storePadding, State.memWrite_keyMem]
@[simp] theorem State.storePadding_resets (len : Nat) (s : State) : (s.storePadding len).resets = s.resets := by simp only [State.storePadding, State.memWrite_resets]
@[simp] theorem State.storePadding_draws (len : Nat) (s : State) : (s.storePadding len).draws = s.draws := by simp only [State.storePadding, State.memWrite_draws]
@[simp] theorem State.storePadding_script (len : Nat) (s : State) : (s.storePadding len).script = s.script := by simp only [State.storePadding, State.memWrite_script]
@[simp] theorem State.storePadding_schedule (len : Nat) (s : State) : (s.storePadding len).schedule = s.schedule := by simp only [State.storePadding, State.memWrite_schedule]
@[simp] theorem State.storePadding_reads (len : Nat) (s : State) : (s.storePadding len).reads = s.reads := by simp only [State.storePadding, State.memWrite_reads]

@[simp] theorem State.enterPadded_params (len : Word) (s : State) : (s.enterPadded len).params = s.params := rfl
@[simp] theorem State.enterPadded_cmd (len : Word) (s : State) : (s.enterPadded len).cmd = s.cmd := rfl
@[simp] theorem State.enterPadded_pend (len : Word) (s : State) : (s.enterPadded len).pend = s.pend := rfl
@[simp] theorem State.enterPadded_busy (len : Word) (s : State) : (s.enterPadded len).busy = s.busy := rfl
@[simp] theorem State.enterPadded_done (len : Word) (s : State) : (s.enterPadded len).done = s.done := rfl
@[simp] theorem State.enterPadded_err (len : Word) (s : State) : (s.enterPadded len).err = s.err := rfl
@[simp] theorem State.enterPadded_inplace (len : Word) (s : State) : (s.enterPadded len).inplace = true := rfl
@[simp] theorem State.enterPadded_phase (len : Word) (s : State) : (s.enterPadded len).phase = .padded := rfl
@[simp] theorem State.enterPadded_errCode (len : Word) (s : State) : (s.enterPadded len).errCode = s.errCode := rfl
@[simp] theorem State.enterPadded_ieDone (len : Word) (s : State) : (s.enterPadded len).ieDone = s.ieDone := rfl
@[simp] theorem State.enterPadded_ieErr (len : Word) (s : State) : (s.enterPadded len).ieErr = s.ieErr := rfl
@[simp] theorem State.enterPadded_msgLen (len : Word) (s : State) : (s.enterPadded len).msgLen = BitVec.ofNat 32 (paddedLength len.toNat) := rfl
@[simp] theorem State.enterPadded_keyLen (len : Word) (s : State) : (s.enterPadded len).keyLen = s.keyLen := rfl
@[simp] theorem State.enterPadded_blkOff (len : Word) (s : State) : (s.enterPadded len).blkOff = s.blkOff := rfl
@[simp] theorem State.enterPadded_blkIdx (len : Word) (s : State) : (s.enterPadded len).blkIdx = 0x00000000#32 := rfl
@[simp] theorem State.enterPadded_origLen (len : Word) (s : State) : (s.enterPadded len).origLen = len := rfl
@[simp] theorem State.enterPadded_h (len : Word) (s : State) : (s.enterPadded len).h = s.h := rfl
@[simp] theorem State.enterPadded_v (len : Word) (s : State) : (s.enterPadded len).v = s.v := rfl
@[simp] theorem State.enterPadded_w (len : Word) (s : State) : (s.enterPadded len).w = s.w := rfl
@[simp] theorem State.enterPadded_dg (len : Word) (s : State) : (s.enterPadded len).dg = s.dg := rfl
@[simp] theorem State.enterPadded_keyMem (len : Word) (s : State) : (s.enterPadded len).keyMem = s.keyMem := rfl
@[simp] theorem State.enterPadded_msgMem (len : Word) (s : State) : (s.enterPadded len).msgMem = s.msgMem := rfl
@[simp] theorem State.enterPadded_resets (len : Word) (s : State) : (s.enterPadded len).resets = s.resets := rfl
@[simp] theorem State.enterPadded_draws (len : Word) (s : State) : (s.enterPadded len).draws = s.draws := rfl
@[simp] theorem State.enterPadded_script (len : Word) (s : State) : (s.enterPadded len).script = s.script := rfl
@[simp] theorem State.enterPadded_schedule (len : Word) (s : State) : (s.enterPadded len).schedule = s.schedule := rfl
@[simp] theorem State.enterPadded_reads (len : Word) (s : State) : (s.enterPadded len).reads = s.reads := rfl

@[simp] theorem State.padInPlace_params (s : State) : (s.padInPlace).params = s.params := by simp only [State.padInPlace, State.enterPadded_params, State.storePadding_params]
@[simp] theorem State.padInPlace_cmd (s : State) : (s.padInPlace).cmd = s.cmd := by simp only [State.padInPlace, State.enterPadded_cmd, State.storePadding_cmd]
@[simp] theorem State.padInPlace_pend (s : State) : (s.padInPlace).pend = s.pend := by simp only [State.padInPlace, State.enterPadded_pend, State.storePadding_pend]
@[simp] theorem State.padInPlace_busy (s : State) : (s.padInPlace).busy = s.busy := by simp only [State.padInPlace, State.enterPadded_busy, State.storePadding_busy]
@[simp] theorem State.padInPlace_done (s : State) : (s.padInPlace).done = s.done := by simp only [State.padInPlace, State.enterPadded_done, State.storePadding_done]
@[simp] theorem State.padInPlace_err (s : State) : (s.padInPlace).err = s.err := by simp only [State.padInPlace, State.enterPadded_err, State.storePadding_err]
@[simp] theorem State.padInPlace_inplace (s : State) : (s.padInPlace).inplace = true := by simp only [State.padInPlace, State.enterPadded_inplace]
@[simp] theorem State.padInPlace_phase (s : State) : (s.padInPlace).phase = .padded := by simp only [State.padInPlace, State.enterPadded_phase]
@[simp] theorem State.padInPlace_errCode (s : State) : (s.padInPlace).errCode = s.errCode := by simp only [State.padInPlace, State.enterPadded_errCode, State.storePadding_errCode]
@[simp] theorem State.padInPlace_ieDone (s : State) : (s.padInPlace).ieDone = s.ieDone := by simp only [State.padInPlace, State.enterPadded_ieDone, State.storePadding_ieDone]
@[simp] theorem State.padInPlace_ieErr (s : State) : (s.padInPlace).ieErr = s.ieErr := by simp only [State.padInPlace, State.enterPadded_ieErr, State.storePadding_ieErr]
@[simp] theorem State.padInPlace_msgLen (s : State) : (s.padInPlace).msgLen = BitVec.ofNat 32 (paddedLength s.msgLen.toNat) := by simp only [State.padInPlace, State.enterPadded_msgLen]
@[simp] theorem State.padInPlace_keyLen (s : State) : (s.padInPlace).keyLen = s.keyLen := by simp only [State.padInPlace, State.enterPadded_keyLen, State.storePadding_keyLen]
@[simp] theorem State.padInPlace_blkOff (s : State) : (s.padInPlace).blkOff = s.blkOff := by simp only [State.padInPlace, State.enterPadded_blkOff, State.storePadding_blkOff]
@[simp] theorem State.padInPlace_blkIdx (s : State) : (s.padInPlace).blkIdx = 0x00000000#32 := by simp only [State.padInPlace, State.enterPadded_blkIdx]
@[simp] theorem State.padInPlace_origLen (s : State) : (s.padInPlace).origLen = s.msgLen := by simp only [State.padInPlace, State.enterPadded_origLen]
@[simp] theorem State.padInPlace_h (s : State) : (s.padInPlace).h = s.h := by simp only [State.padInPlace, State.enterPadded_h, State.storePadding_h]
@[simp] theorem State.padInPlace_v (s : State) : (s.padInPlace).v = s.v := by simp only [State.padInPlace, State.enterPadded_v, State.storePadding_v]
@[simp] theorem State.padInPlace_w (s : State) : (s.padInPlace).w = s.w := by simp only [State.padInPlace, State.enterPadded_w, State.storePadding_w]
@[simp] theorem State.padInPlace_dg (s : State) : (s.padInPlace).dg = s.dg := by simp only [State.padInPlace, State.enterPadded_dg, State.storePadding_dg]
@[simp] theorem State.padInPlace_keyMem (s : State) : (s.padInPlace).keyMem = s.keyMem := by simp only [State.padInPlace, State.enterPadded_keyMem, State.storePadding_keyMem]
@[simp] theorem State.padInPlace_msgMem (s : State) : (s.padInPlace).msgMem = (s.storePadding s.msgLen.toNat).msgMem := by simp only [State.padInPlace, State.enterPadded_msgMem]
@[simp] theorem State.padInPlace_resets (s : State) : (s.padInPlace).resets = s.resets := by simp only [State.padInPlace, State.enterPadded_resets, State.storePadding_resets]
@[simp] theorem State.padInPlace_draws (s : State) : (s.padInPlace).draws = s.draws := by simp only [State.padInPlace, State.enterPadded_draws, State.storePadding_draws]
@[simp] theorem State.padInPlace_script (s : State) : (s.padInPlace).script = s.script := by simp only [State.padInPlace, State.enterPadded_script, State.storePadding_script]
@[simp] theorem State.padInPlace_schedule (s : State) : (s.padInPlace).schedule = s.schedule := by simp only [State.padInPlace, State.enterPadded_schedule, State.storePadding_schedule]
@[simp] theorem State.padInPlace_reads (s : State) : (s.padInPlace).reads = s.reads := by simp only [State.padInPlace, State.enterPadded_reads, State.storePadding_reads]

@[simp] theorem State.answer_params (x : Word) (s : State) : (s.answer x).params = s.params := rfl
@[simp] theorem State.answer_cmd (x : Word) (s : State) : (s.answer x).cmd = s.cmd := rfl
@[simp] theorem State.answer_pend (x : Word) (s : State) : (s.answer x).pend = s.pend := rfl
@[simp] theorem State.answer_busy (x : Word) (s : State) : (s.answer x).busy = s.busy := rfl
@[simp] theorem State.answer_done (x : Word) (s : State) : (s.answer x).done = s.done := rfl
@[simp] theorem State.answer_err (x : Word) (s : State) : (s.answer x).err = s.err := rfl
@[simp] theorem State.answer_inplace (x : Word) (s : State) : (s.answer x).inplace = s.inplace := rfl
@[simp] theorem State.answer_phase (x : Word) (s : State) : (s.answer x).phase = s.phase := rfl
@[simp] theorem State.answer_errCode (x : Word) (s : State) : (s.answer x).errCode = s.errCode := rfl
@[simp] theorem State.answer_ieDone (x : Word) (s : State) : (s.answer x).ieDone = s.ieDone := rfl
@[simp] theorem State.answer_ieErr (x : Word) (s : State) : (s.answer x).ieErr = s.ieErr := rfl
@[simp] theorem State.answer_msgLen (x : Word) (s : State) : (s.answer x).msgLen = s.msgLen := rfl
@[simp] theorem State.answer_keyLen (x : Word) (s : State) : (s.answer x).keyLen = s.keyLen := rfl
@[simp] theorem State.answer_blkOff (x : Word) (s : State) : (s.answer x).blkOff = s.blkOff := rfl
@[simp] theorem State.answer_blkIdx (x : Word) (s : State) : (s.answer x).blkIdx = s.blkIdx := rfl
@[simp] theorem State.answer_origLen (x : Word) (s : State) : (s.answer x).origLen = s.origLen := rfl
@[simp] theorem State.answer_h (x : Word) (s : State) : (s.answer x).h = s.h := rfl
@[simp] theorem State.answer_v (x : Word) (s : State) : (s.answer x).v = s.v := rfl
@[simp] theorem State.answer_w (x : Word) (s : State) : (s.answer x).w = s.w := rfl
@[simp] theorem State.answer_dg (x : Word) (s : State) : (s.answer x).dg = s.dg := rfl
@[simp] theorem State.answer_keyMem (x : Word) (s : State) : (s.answer x).keyMem = s.keyMem := rfl
@[simp] theorem State.answer_msgMem (x : Word) (s : State) : (s.answer x).msgMem = s.msgMem := rfl
@[simp] theorem State.answer_resets (x : Word) (s : State) : (s.answer x).resets = s.resets := rfl
@[simp] theorem State.answer_draws (x : Word) (s : State) : (s.answer x).draws = s.draws := rfl
@[simp] theorem State.answer_script (x : Word) (s : State) : (s.answer x).script = s.script := rfl
@[simp] theorem State.answer_schedule (x : Word) (s : State) : (s.answer x).schedule = s.schedule := rfl
@[simp] theorem State.answer_reads (x : Word) (s : State) : (s.answer x).reads = x :: s.reads := rfl

@[simp] theorem State.answerDraw_params (x : Word) (s : State) : (s.answerDraw x).params = s.params := rfl
@[simp] theorem State.answerDraw_cmd (x : Word) (s : State) : (s.answerDraw x).cmd = s.cmd := rfl
@[simp] theorem State.answerDraw_pend (x : Word) (s : State) : (s.answerDraw x).pend = s.pend := rfl
@[simp] theorem State.answerDraw_busy (x : Word) (s : State) : (s.answerDraw x).busy = s.busy := rfl
@[simp] theorem State.answerDraw_done (x : Word) (s : State) : (s.answerDraw x).done = s.done := rfl
@[simp] theorem State.answerDraw_err (x : Word) (s : State) : (s.answerDraw x).err = s.err := rfl
@[simp] theorem State.answerDraw_inplace (x : Word) (s : State) : (s.answerDraw x).inplace = s.inplace := rfl
@[simp] theorem State.answerDraw_phase (x : Word) (s : State) : (s.answerDraw x).phase = s.phase := rfl
@[simp] theorem State.answerDraw_errCode (x : Word) (s : State) : (s.answerDraw x).errCode = s.errCode := rfl
@[simp] theorem State.answerDraw_ieDone (x : Word) (s : State) : (s.answerDraw x).ieDone = s.ieDone := rfl
@[simp] theorem State.answerDraw_ieErr (x : Word) (s : State) : (s.answerDraw x).ieErr = s.ieErr := rfl
@[simp] theorem State.answerDraw_msgLen (x : Word) (s : State) : (s.answerDraw x).msgLen = s.msgLen := rfl
@[simp] theorem State.answerDraw_keyLen (x : Word) (s : State) : (s.answerDraw x).keyLen = s.keyLen := rfl
@[simp] theorem State.answerDraw_blkOff (x : Word) (s : State) : (s.answerDraw x).blkOff = s.blkOff := rfl
@[simp] theorem State.answerDraw_blkIdx (x : Word) (s : State) : (s.answerDraw x).blkIdx = s.blkIdx := rfl
@[simp] theorem State.answerDraw_origLen (x : Word) (s : State) : (s.answerDraw x).origLen = s.origLen := rfl
@[simp] theorem State.answerDraw_h (x : Word) (s : State) : (s.answerDraw x).h = s.h := rfl
@[simp] theorem State.answerDraw_v (x : Word) (s : State) : (s.answerDraw x).v = s.v := rfl
@[simp] theorem State.answerDraw_w (x : Word) (s : State) : (s.answerDraw x).w = s.w := rfl
@[simp] theorem State.answerDraw_dg (x : Word) (s : State) : (s.answerDraw x).dg = s.dg := rfl
@[simp] theorem State.answerDraw_keyMem (x : Word) (s : State) : (s.answerDraw x).keyMem = s.keyMem := rfl
@[simp] theorem State.answerDraw_msgMem (x : Word) (s : State) : (s.answerDraw x).msgMem = s.msgMem := rfl
@[simp] theorem State.answerDraw_resets (x : Word) (s : State) : (s.answerDraw x).resets = s.resets := rfl
@[simp] theorem State.answerDraw_draws (x : Word) (s : State) : (s.answerDraw x).draws = s.draws + 1 := rfl
@[simp] theorem State.answerDraw_script (x : Word) (s : State) : (s.answerDraw x).script = s.script := rfl
@[simp] theorem State.answerDraw_schedule (x : Word) (s : State) : (s.answerDraw x).schedule = s.schedule := rfl
@[simp] theorem State.answerDraw_reads (x : Word) (s : State) : (s.answerDraw x).reads = x :: s.reads := rfl

@[simp] theorem State.keepingHostOf_params (s old : State) : (s.keepingHostOf old).params = s.params := rfl
@[simp] theorem State.keepingHostOf_cmd (s old : State) : (s.keepingHostOf old).cmd = s.cmd := rfl
@[simp] theorem State.keepingHostOf_pend (s old : State) : (s.keepingHostOf old).pend = s.pend := rfl
@[simp] theorem State.keepingHostOf_busy (s old : State) : (s.keepingHostOf old).busy = s.busy := rfl
@[simp] theorem State.keepingHostOf_done (s old : State) : (s.keepingHostOf old).done = s.done := rfl
@[simp] theorem State.keepingHostOf_err (s old : State) : (s.keepingHostOf old).err = s.err := rfl
@[simp] theorem State.keepingHostOf_inplace (s old : State) : (s.keepingHostOf old).inplace = s.inplace := rfl
@[simp] theorem State.keepingHostOf_phase (s old : State) : (s.keepingHostOf old).phase = s.phase := rfl
@[simp] theorem State.keepingHostOf_errCode (s old : State) : (s.keepingHostOf old).errCode = s.errCode := rfl
@[simp] theorem State.keepingHostOf_ieDone (s old : State) : (s.keepingHostOf old).ieDone = s.ieDone := rfl
@[simp] theorem State.keepingHostOf_ieErr (s old : State) : (s.keepingHostOf old).ieErr = s.ieErr := rfl
@[simp] theorem State.keepingHostOf_msgLen (s old : State) : (s.keepingHostOf old).msgLen = s.msgLen := rfl
@[simp] theorem State.keepingHostOf_keyLen (s old : State) : (s.keepingHostOf old).keyLen = s.keyLen := rfl
@[simp] theorem State.keepingHostOf_blkOff (s old : State) : (s.keepingHostOf old).blkOff = s.blkOff := rfl
@[simp] theorem State.keepingHostOf_blkIdx (s old : State) : (s.keepingHostOf old).blkIdx = s.blkIdx := rfl
@[simp] theorem State.keepingHostOf_origLen (s old : State) : (s.keepingHostOf old).origLen = s.origLen := rfl
@[simp] theorem State.keepingHostOf_h (s old : State) : (s.keepingHostOf old).h = s.h := rfl
@[simp] theorem State.keepingHostOf_v (s old : State) : (s.keepingHostOf old).v = s.v := rfl
@[simp] theorem State.keepingHostOf_w (s old : State) : (s.keepingHostOf old).w = s.w := rfl
@[simp] theorem State.keepingHostOf_dg (s old : State) : (s.keepingHostOf old).dg = s.dg := rfl
@[simp] theorem State.keepingHostOf_keyMem (s old : State) : (s.keepingHostOf old).keyMem = s.keyMem := rfl
@[simp] theorem State.keepingHostOf_msgMem (s old : State) : (s.keepingHostOf old).msgMem = s.msgMem := rfl
@[simp] theorem State.keepingHostOf_resets (s old : State) : (s.keepingHostOf old).resets = s.resets := rfl
@[simp] theorem State.keepingHostOf_draws (s old : State) : (s.keepingHostOf old).draws = old.draws := rfl
@[simp] theorem State.keepingHostOf_script (s old : State) : (s.keepingHostOf old).script = old.script := rfl
@[simp] theorem State.keepingHostOf_schedule (s old : State) : (s.keepingHostOf old).schedule = old.schedule := rfl
@[simp] theorem State.keepingHostOf_reads (s old : State) : (s.keepingHostOf old).reads = old.reads := rfl

@[simp] theorem State.dropOp_params (s : State) : (s.dropOp).params = s.params := rfl
@[simp] theorem State.dropOp_cmd (s : State) : (s.dropOp).cmd = s.cmd := rfl
@[simp] theorem State.dropOp_pend (s : State) : (s.dropOp).pend = s.pend := rfl
@[simp] theorem State.dropOp_busy (s : State) : (s.dropOp).busy = s.busy := rfl
@[simp] theorem State.dropOp_done (s : State) : (s.dropOp).done = s.done := rfl
@[simp] theorem State.dropOp_err (s : State) : (s.dropOp).err = s.err := rfl
@[simp] theorem State.dropOp_inplace (s : State) : (s.dropOp).inplace = s.inplace := rfl
@[simp] theorem State.dropOp_phase (s : State) : (s.dropOp).phase = s.phase := rfl
@[simp] theorem State.dropOp_errCode (s : State) : (s.dropOp).errCode = s.errCode := rfl
@[simp] theorem State.dropOp_ieDone (s : State) : (s.dropOp).ieDone = s.ieDone := rfl
@[simp] theorem State.dropOp_ieErr (s : State) : (s.dropOp).ieErr = s.ieErr := rfl
@[simp] theorem State.dropOp_msgLen (s : State) : (s.dropOp).msgLen = s.msgLen := rfl
@[simp] theorem State.dropOp_keyLen (s : State) : (s.dropOp).keyLen = s.keyLen := rfl
@[simp] theorem State.dropOp_blkOff (s : State) : (s.dropOp).blkOff = s.blkOff := rfl
@[simp] theorem State.dropOp_blkIdx (s : State) : (s.dropOp).blkIdx = s.blkIdx := rfl
@[simp] theorem State.dropOp_origLen (s : State) : (s.dropOp).origLen = s.origLen := rfl
@[simp] theorem State.dropOp_h (s : State) : (s.dropOp).h = s.h := rfl
@[simp] theorem State.dropOp_v (s : State) : (s.dropOp).v = s.v := rfl
@[simp] theorem State.dropOp_w (s : State) : (s.dropOp).w = s.w := rfl
@[simp] theorem State.dropOp_dg (s : State) : (s.dropOp).dg = s.dg := rfl
@[simp] theorem State.dropOp_keyMem (s : State) : (s.dropOp).keyMem = s.keyMem := rfl
@[simp] theorem State.dropOp_msgMem (s : State) : (s.dropOp).msgMem = s.msgMem := rfl
@[simp] theorem State.dropOp_resets (s : State) : (s.dropOp).resets = s.resets := rfl
@[simp] theorem State.dropOp_draws (s : State) : (s.dropOp).draws = s.draws := rfl
@[simp] theorem State.dropOp_script (s : State) : (s.dropOp).script = s.script.tail := rfl
@[simp] theorem State.dropOp_schedule (s : State) : (s.dropOp).schedule = s.schedule := rfl
@[simp] theorem State.dropOp_reads (s : State) : (s.dropOp).reads = s.reads := rfl

@[simp] theorem State.dropTurn_params (s : State) : (s.dropTurn).params = s.params := rfl
@[simp] theorem State.dropTurn_cmd (s : State) : (s.dropTurn).cmd = s.cmd := rfl
@[simp] theorem State.dropTurn_pend (s : State) : (s.dropTurn).pend = s.pend := rfl
@[simp] theorem State.dropTurn_busy (s : State) : (s.dropTurn).busy = s.busy := rfl
@[simp] theorem State.dropTurn_done (s : State) : (s.dropTurn).done = s.done := rfl
@[simp] theorem State.dropTurn_err (s : State) : (s.dropTurn).err = s.err := rfl
@[simp] theorem State.dropTurn_inplace (s : State) : (s.dropTurn).inplace = s.inplace := rfl
@[simp] theorem State.dropTurn_phase (s : State) : (s.dropTurn).phase = s.phase := rfl
@[simp] theorem State.dropTurn_errCode (s : State) : (s.dropTurn).errCode = s.errCode := rfl
@[simp] theorem State.dropTurn_ieDone (s : State) : (s.dropTurn).ieDone = s.ieDone := rfl
@[simp] theorem State.dropTurn_ieErr (s : State) : (s.dropTurn).ieErr = s.ieErr := rfl
@[simp] theorem State.dropTurn_msgLen (s : State) : (s.dropTurn).msgLen = s.msgLen := rfl
@[simp] theorem State.dropTurn_keyLen (s : State) : (s.dropTurn).keyLen = s.keyLen := rfl
@[simp] theorem State.dropTurn_blkOff (s : State) : (s.dropTurn).blkOff = s.blkOff := rfl
@[simp] theorem State.dropTurn_blkIdx (s : State) : (s.dropTurn).blkIdx = s.blkIdx := rfl
@[simp] theorem State.dropTurn_origLen (s : State) : (s.dropTurn).origLen = s.origLen := rfl
@[simp] theorem State.dropTurn_h (s : State) : (s.dropTurn).h = s.h := rfl
@[simp] theorem State.dropTurn_v (s : State) : (s.dropTurn).v = s.v := rfl
@[simp] theorem State.dropTurn_w (s : State) : (s.dropTurn).w = s.w := rfl
@[simp] theorem State.dropTurn_dg (s : State) : (s.dropTurn).dg = s.dg := rfl
@[simp] theorem State.dropTurn_keyMem (s : State) : (s.dropTurn).keyMem = s.keyMem := rfl
@[simp] theorem State.dropTurn_msgMem (s : State) : (s.dropTurn).msgMem = s.msgMem := rfl
@[simp] theorem State.dropTurn_resets (s : State) : (s.dropTurn).resets = s.resets := rfl
@[simp] theorem State.dropTurn_draws (s : State) : (s.dropTurn).draws = s.draws := rfl
@[simp] theorem State.dropTurn_script (s : State) : (s.dropTurn).script = s.script := rfl
@[simp] theorem State.dropTurn_schedule (s : State) : (s.dropTurn).schedule = s.schedule.tail := rfl
@[simp] theorem State.dropTurn_reads (s : State) : (s.dropTurn).reads = s.reads := rfl

@[simp] theorem State.withCommand_params (x : Word) (s : State) : (s.withCommand x).params = s.params := rfl
@[simp] theorem State.withCommand_cmd (x : Word) (s : State) : (s.withCommand x).cmd = x := rfl
@[simp] theorem State.withCommand_pend (x : Word) (s : State) : (s.withCommand x).pend = some x := rfl
@[simp] theorem State.withCommand_busy (x : Word) (s : State) : (s.withCommand x).busy = true := rfl
@[simp] theorem State.withCommand_done (x : Word) (s : State) : (s.withCommand x).done = false := rfl
@[simp] theorem State.withCommand_err (x : Word) (s : State) : (s.withCommand x).err = s.err := rfl
@[simp] theorem State.withCommand_inplace (x : Word) (s : State) : (s.withCommand x).inplace = s.inplace := rfl
@[simp] theorem State.withCommand_phase (x : Word) (s : State) : (s.withCommand x).phase = s.phase := rfl
@[simp] theorem State.withCommand_errCode (x : Word) (s : State) : (s.withCommand x).errCode = s.errCode := rfl
@[simp] theorem State.withCommand_ieDone (x : Word) (s : State) : (s.withCommand x).ieDone = s.ieDone := rfl
@[simp] theorem State.withCommand_ieErr (x : Word) (s : State) : (s.withCommand x).ieErr = s.ieErr := rfl
@[simp] theorem State.withCommand_msgLen (x : Word) (s : State) : (s.withCommand x).msgLen = s.msgLen := rfl
@[simp] theorem State.withCommand_keyLen (x : Word) (s : State) : (s.withCommand x).keyLen = s.keyLen := rfl
@[simp] theorem State.withCommand_blkOff (x : Word) (s : State) : (s.withCommand x).blkOff = s.blkOff := rfl
@[simp] theorem State.withCommand_blkIdx (x : Word) (s : State) : (s.withCommand x).blkIdx = s.blkIdx := rfl
@[simp] theorem State.withCommand_origLen (x : Word) (s : State) : (s.withCommand x).origLen = s.origLen := rfl
@[simp] theorem State.withCommand_h (x : Word) (s : State) : (s.withCommand x).h = s.h := rfl
@[simp] theorem State.withCommand_v (x : Word) (s : State) : (s.withCommand x).v = s.v := rfl
@[simp] theorem State.withCommand_w (x : Word) (s : State) : (s.withCommand x).w = s.w := rfl
@[simp] theorem State.withCommand_dg (x : Word) (s : State) : (s.withCommand x).dg = s.dg := rfl
@[simp] theorem State.withCommand_keyMem (x : Word) (s : State) : (s.withCommand x).keyMem = s.keyMem := rfl
@[simp] theorem State.withCommand_msgMem (x : Word) (s : State) : (s.withCommand x).msgMem = s.msgMem := rfl
@[simp] theorem State.withCommand_resets (x : Word) (s : State) : (s.withCommand x).resets = s.resets := rfl
@[simp] theorem State.withCommand_draws (x : Word) (s : State) : (s.withCommand x).draws = s.draws := rfl
@[simp] theorem State.withCommand_script (x : Word) (s : State) : (s.withCommand x).script = s.script := rfl
@[simp] theorem State.withCommand_schedule (x : Word) (s : State) : (s.withCommand x).schedule = .engine :: s.schedule := rfl
@[simp] theorem State.withCommand_reads (x : Word) (s : State) : (s.withCommand x).reads = s.reads := rfl

end Sys2Proof.Machine
end

