-- ==== Sys2Proof/Laws/Memory.lean ====
section
/-! SUPPORT. The laws of the byte memories: the canonical form is kept, read after write, and the same through the state's
own reads. -/

namespace Sys2Proof.Machine

theorem Memory.wf_iff_pairwise (m : Memory) : Memory.wf m = true ↔ m.Pairwise (fun c d => c.1 < d.1) := by
  induction m with
  | nil => simp [Memory.wf]
  | cons c m ih =>
    cases m with
    | nil => simp [Memory.wf]
    | cons d m =>
      simp only [Memory.wf, Bool.and_eq_true, decide_eq_true_eq, ih, List.pairwise_cons]
      constructor
      · rintro ⟨hcd, hd, hm⟩
        refine ⟨fun e he => ?_, hd, hm⟩
        rcases List.mem_cons.1 he with rfl | he
        · exact hcd
        · exact hcd.trans (hd e he)
      · rintro ⟨hc, hd, hm⟩
        exact ⟨hc d (by simp), hd, hm⟩

theorem Memory.mem_write {m : Memory} {a : Nat} {b : Byte} {c : Host.Cell} (h : c ∈ Memory.write m a b) :
    c = (a, b) ∨ c ∈ m := by
  induction m with
  | nil => simpa [Memory.write] using h
  | cons d m ih =>
    simp only [Memory.write] at h
    split at h
    · simpa using h
    · split at h
      · rcases List.mem_cons.1 h with h | h
        · exact .inl h
        · exact .inr (List.mem_cons_of_mem _ h)
      · rcases List.mem_cons.1 h with h | h
        · exact .inr (by rw [h]; simp)
        · exact (ih h).imp id (List.mem_cons_of_mem _)

theorem Memory.wf_write {m : Memory} (h : Memory.wf m = true) (a : Nat) (b : Byte) :
    Memory.wf (Memory.write m a b) = true := by
  rw [Memory.wf_iff_pairwise] at *
  induction m with
  | nil => simp [Memory.write]
  | cons d m ih =>
    obtain ⟨hd, hm⟩ := List.pairwise_cons.1 h
    simp only [Memory.write]
    split
    · next hlt =>
      refine List.pairwise_cons.2 ⟨fun e he => ?_, h⟩
      rcases List.mem_cons.1 he with rfl | he
      · exact hlt
      · exact Nat.lt_trans hlt (hd e he)
    · split
      · next heq => exact List.pairwise_cons.2 ⟨fun e he => by simpa [heq] using hd e he, hm⟩
      · refine List.pairwise_cons.2 ⟨fun e he => ?_, ih hm⟩
        rcases Memory.mem_write he with rfl | he
        · show d.1 < a; omega
        · exact hd e he

theorem Memory.wf_writeBytes {m : Memory} (h : Memory.wf m = true) (a : Nat) (bs : List Byte) :
    Memory.wf (Memory.writeBytes m a bs) = true := by
  induction bs generalizing m a with
  | nil => exact h
  | cons b bs ih => exact ih (Memory.wf_write h a b) (a + 1)

theorem Memory.within_write {cap : Nat} {m : Memory} (h : Memory.within cap m = true) {a : Nat} (ha : a < cap) (b : Byte) :
    Memory.within cap (Memory.write m a b) = true := by
  simp only [Memory.within, List.all_eq_true, decide_eq_true_eq] at *
  intro c hc
  rcases Memory.mem_write hc with rfl | hc
  · exact ha
  · exact h c hc

theorem Memory.within_writeBytes {cap : Nat} {m : Memory} (h : Memory.within cap m = true) (a : Nat) (bs : List Byte)
    (ha : a + bs.length ≤ cap) : Memory.within cap (Memory.writeBytes m a bs) = true := by
  induction bs generalizing m a with
  | nil => exact h
  | cons b bs ih =>
    rw [List.length_cons] at ha
    exact ih (Memory.within_write h (by omega) b) (a + 1) (by omega)

theorem Memory.read_write (m : Memory) (a : Nat) (b : Byte) (x : Nat) :
    Memory.read (Memory.write m a b) x = if x = a then some b else Memory.read m x := by
  induction m with
  | nil => simp [Memory.write, Memory.read]
  | cons d m ih =>
    simp only [Memory.write]
    split
    · simp [Memory.read]
    · split
      · next h => simp only [Memory.read, h]; split <;> rfl
      · next h =>
        simp only [Memory.read, ih]
        split
        · next hx => rw [if_neg]; omega
        · rfl

theorem Memory.read_writeBytes (m : Memory) (a : Nat) (bs : List Byte) (x : Nat) :
    Memory.read (Memory.writeBytes m a bs) x =
      if a ≤ x ∧ x < a + bs.length then some (bs.getD (x - a) 0) else Memory.read m x := by
  induction bs generalizing m a with
  | nil => rw [if_neg (by simp)]; rfl
  | cons b bs ih =>
    rw [Memory.writeBytes, ih, Memory.read_write, List.length_cons]
    by_cases hx : x = a
    · subst hx
      simp
    · by_cases hin : a + 1 ≤ x ∧ x < a + 1 + bs.length
      · rw [if_pos hin, if_pos (by omega)]
        obtain ⟨k, rfl⟩ : ∃ k, x = a + 1 + k := ⟨x - (a + 1), by omega⟩
        rw [show a + 1 + k - a = k + 1 by omega, show a + 1 + k - (a + 1) = k by omega]
        simp
      · rw [if_neg hin, if_neg hx, if_neg (by omega)]

/-- Reading a message byte after `MemWrite`. -/
theorem State.msgByte_memWrite (s : State) (a : Nat) (bs : List Byte) (x : Nat) :
    (s.memWrite a bs).msgByte x = if a ≤ x ∧ x < a + bs.length then bs.getD (x - a) 0 else s.msgByte x := by
  simp only [State.msgByte, State.memWrite_msgMem, State.memWrite_resets, Memory.read_writeBytes]
  split <;> rfl

/-- Reading a key byte after a write of the key memory. -/
theorem State.keyByte_keyWrite (s : State) (a : Nat) (bs : List Byte) (x : Nat) :
    (s.keyWrite a bs).keyByte x = if a ≤ x ∧ x < a + bs.length then bs.getD (x - a) 0 else s.keyByte x := by
  simp only [State.keyByte, State.keyWrite_keyMem, State.keyWrite_resets, Memory.read_writeBytes]
  split <;> rfl

/-- A message byte depends on the message memory and the number of resets only. -/
theorem State.msgByte_congr {s t : State} (hm : t.msgMem = s.msgMem) (hr : t.resets = s.resets) (a : Nat) :
    t.msgByte a = s.msgByte a := by rw [State.msgByte, State.msgByte, hm, hr]

/-- A key byte depends on the key memory and the number of resets only. -/
theorem State.keyByte_congr {s t : State} (hm : t.keyMem = s.keyMem) (hr : t.resets = s.resets) (a : Nat) :
    t.keyByte a = s.keyByte a := by rw [State.keyByte, State.keyByte, hm, hr]

@[simp] theorem State.memRead_length (s : State) (a n : Nat) : (s.memRead a n).length = n := by simp [State.memRead]

@[simp] theorem State.keyRead_length (s : State) (a n : Nat) : (s.keyRead a n).length = n := by simp [State.keyRead]

@[simp] theorem State.memRead_getD (s : State) (a n i : Nat) (h : i < n) (d : Byte) :
    (s.memRead a n).getD i d = s.msgByte (a + i) := by simp [State.memRead, List.getD, h]

theorem State.memRead_congr {s t : State} {a n : Nat} (h : ∀ i, i < n → t.msgByte (a + i) = s.msgByte (a + i)) :
    t.memRead a n = s.memRead a n := by
  simp only [State.memRead]
  exact List.map_congr_left fun i hi => h i (List.mem_range.1 hi)

theorem State.keyRead_congr {s t : State} {a n : Nat} (h : ∀ i, i < n → t.keyByte (a + i) = s.keyByte (a + i)) :
    t.keyRead a n = s.keyRead a n := by
  simp only [State.keyRead]
  exact List.map_congr_left fun i hi => h i (List.mem_range.1 hi)

/-- The first n of n + m bytes read. -/
theorem State.memRead_take (s : State) (a n m : Nat) : (s.memRead a (n + m)).take n = s.memRead a n := by
  simp [State.memRead, ← List.map_take, List.take_range]

/-- The last m of n + m bytes read. -/
theorem State.memRead_drop (s : State) (a n m : Nat) : (s.memRead a (n + m)).drop n = s.memRead (a + n) m := by
  apply List.ext_getElem
  · simp [State.memRead]
  · intro k h1 h2
    simp [State.memRead, Nat.add_assoc]

end Sys2Proof.Machine
end

