-- ==== Sys2Proof/Laws/Bus.lean ====
section
/-! SUPPORT. What a host access can do: the register map, refused and plain writes, reads, and the cases of an access. -/

namespace Sys2Proof.Machine

/-- Every end of an access (20_memory.md R80, R81). -/
theorem access_cases (s : State) (offset : Word) (act : Loc → State) :
    (offset.toNat % 4 ≠ 0 ∧ access s offset act = .fault .hostProtocol) ∨
    (offset.toNat % 4 = 0 ∧ spanBytes s.params ≤ offset.toNat ∧ access s offset act = .refused .outsideSpan) ∨
    (offset.toNat % 4 = 0 ∧ offset.toNat < spanBytes s.params ∧
      access s offset act = .next (act (locOf s.params offset.toNat))) := by
  unfold access
  by_cases h : offset.toNat % 4 = 0
  · by_cases h' : spanBytes s.params ≤ offset.toNat
    · exact .inr (.inl ⟨h, h', by simp [h, h']⟩)
    · exact .inr (.inr ⟨h, not_le.1 h', by simp [h, h']⟩)
  · exact .inl ⟨h, by simp [h]⟩

/-- No single register is a window location. -/
theorem scalarLoc_not_window (n a : Nat) : scalarLoc n ≠ .key a ∧ scalarLoc n ≠ .msg a := by
  unfold scalarLoc
  split <;> exact ⟨by simp, by simp⟩

/-- A key window location lies inside the key memory (10_state.md R30, 20_memory.md R84). -/
theorem locOf_key {p : Params} {off a : Nat} (h : locOf p off = .key a) : off = 0x1000 + a ∧ a < p.keyMemBytes := by
  unfold locOf at h
  repeat' split at h
  all_goals first | exact absurd h (scalarLoc_not_window _ _).1 | (injection h with h; omega) | cases h

/-- A message window location lies inside the message memory (R30, R85). -/
theorem locOf_msg {p : Params} {off a : Nat} (h : locOf p off = .msg a) : off = 0x10000 + a ∧ a < p.msgMemBytes := by
  unfold locOf at h
  repeat' split at h
  all_goals first | exact absurd h (scalarLoc_not_window _ _).2 | (injection h with h; omega) | cases h

/-- A refused write records BUSY and does nothing else (60_exceptions.md R213). -/
theorem State.writeLoc_busy {s : State} {l : Loc} (hb : s.busy = true) (hl : l.refusedWhileBusy = true) (x : Word) :
    s.writeLoc l x = s.recordError .busy := by simp [State.writeLoc, hb, hl]

/-- A write that BUSY does not refuse. -/
theorem State.writeLoc_idle {s : State} {l : Loc} (h : s.busy = false ∨ l.refusedWhileBusy = false) (x : Word) :
    s.writeLoc l x = s.storeLoc l x := by
  rcases h with h | h <;> simp [State.writeLoc, h]

/-- A host read answers one value, counts at most one draw, and changes nothing else (20_memory.md R90). -/
theorem State.hostRead_eq (s : State) (l : Loc) :
    ∃ x d, s.hostRead l = { s with reads := x :: s.reads, draws := d } := by
  unfold State.hostRead
  split
  · exact ⟨_, _, rfl⟩
  · exact ⟨_, s.draws, rfl⟩

/-- Outside the locations of R97, or while BUSY = 0, a read answers the true value. -/
theorem State.hostRead_true {s : State} {l : Loc} (h : s.busy = false ∨ l.unspecifiedWhileBusy = false) :
    s.hostRead l = s.answer (s.readLoc l) := by
  rcases h with h | h <;> simp [State.hostRead, h]

/-- The window word read back after it was written (20_memory.md R86). -/
theorem State.msgWindowWord_memWrite (s : State) (a : Nat) (x : Word) :
    (s.memWrite a (bytes32 x)).msgWindowWord a = x := by
  simp only [State.msgWindowWord, State.msgByte_memWrite, bytes32_length]
  rw [if_pos (by omega), if_pos (by omega), if_pos (by omega), if_pos (by omega)]
  simpa [bytes32, Nat.add_sub_cancel_left] using be32_bytes32 x

/-- The same for the key window. -/
theorem State.keyWindowWord_keyWrite (s : State) (a : Nat) (x : Word) :
    (s.keyWrite a (bytes32 x)).keyWindowWord a = x := by
  simp only [State.keyWindowWord, State.keyByte_keyWrite, bytes32_length]
  rw [if_pos (by omega), if_pos (by omega), if_pos (by omega), if_pos (by omega)]
  simpa [bytes32, Nat.add_sub_cancel_left] using be32_bytes32 x

@[simp] theorem Quint.get_set_same (q : Quint) (k : Fin 5) (x : Word) : (q.set k x).get k = x := by
  match k with
  | 0 | 1 | 2 | 3 | 4 => rfl

theorem Quint.get_set_ne (q : Quint) {k l : Fin 5} (h : l ≠ k) (x : Word) : (q.set k x).get l = q.get l := by
  match k, l with
  | 0, 0 | 1, 1 | 2, 2 | 3, 3 | 4, 4 => exact absurd rfl h
  | 0, 1 | 0, 2 | 0, 3 | 0, 4 | 1, 0 | 1, 2 | 1, 3 | 1, 4 | 2, 0 | 2, 1 | 2, 3 | 2, 4 | 3, 0 | 3, 1 | 3, 2 | 3, 4
  | 4, 0 | 4, 1 | 4, 2 | 4, 3 => rfl

/-- An aligned access inside the span is the location's (10_state.md R30). -/
theorem access_at {s : State} {offset : Word} {l : Loc} (act : Loc → State) (h4 : offset.toNat % 4 = 0)
    (hs : offset.toNat < 0x10000 + s.params.msgMemBytes) (hl : locOf s.params offset.toNat = l) :
    access s offset act = .next (act l) := by
  unfold access
  rw [if_neg (by omega), if_neg (by unfold spanBytes; omega), hl]

/-- The register map, range by range (R30). -/
theorem locOf_cases (p : Params) (n : Nat) :
    (n < 0x40 ∧ locOf p n = scalarLoc (n / 4)) ∨
    (0x40 ≤ n ∧ n < 0x54 ∧ ∃ k, locOf p n = .h k) ∨
    (0x60 ≤ n ∧ n < 0x74 ∧ ∃ k, locOf p n = .v k) ∨
    (0x80 ≤ n ∧ n < 0x94 ∧ ∃ k, locOf p n = .dg k) ∨
    (0x100 ≤ n ∧ n < 0x240 ∧ ∃ k, locOf p n = .w k) ∨
    (0x1000 ≤ n ∧ n < 0x1000 + p.keyMemBytes ∧ locOf p n = .key (n - 0x1000)) ∨
    (0x10000 ≤ n ∧ n < 0x10000 + p.msgMemBytes ∧ locOf p n = .msg (n - 0x10000)) ∨
    (¬ n < 0x40 ∧ ¬ (0x40 ≤ n ∧ n < 0x54) ∧ ¬ (0x60 ≤ n ∧ n < 0x74) ∧ ¬ (0x80 ≤ n ∧ n < 0x94) ∧
      ¬ (0x100 ≤ n ∧ n < 0x240) ∧ ¬ (0x1000 ≤ n ∧ n < 0x1000 + p.keyMemBytes) ∧
      ¬ (0x10000 ≤ n ∧ n < 0x10000 + p.msgMemBytes) ∧ locOf p n = .unmapped) := by
  unfold locOf
  by_cases h1 : n < 0x40
  · simp [h1]
  by_cases h2 : n < 0x54
  · simp [h1, h2]; omega
  by_cases h3 : 0x60 ≤ n ∧ n < 0x74
  · simp [h1, h2, h3]
  by_cases h4 : 0x80 ≤ n ∧ n < 0x94
  · simp [h1, h2, h3, h4]
  by_cases h5 : 0x100 ≤ n ∧ n < 0x240
  · simp [h1, h2, h3, h4, h5]
  by_cases h6 : 0x1000 ≤ n ∧ n < 0x1000 + p.keyMemBytes
  · simp [h1, h2, h3, h4, h5, h6]
  by_cases h7 : 0x10000 ≤ n ∧ n < 0x10000 + p.msgMemBytes
  · simp [h1, h2, h3, h4, h5, h6, h7]
  · simp only [h1, h2, h3, h4, h5, h6, h7, if_false]; simp

/-- The schedule register at its offset (R30). -/
theorem locOf_w {j : Nat} (hj : j < 80) (p : Params) : locOf p (0x100 + 4 * j) = .w ⟨j, hj⟩ := by
  unfold locOf
  rw [if_neg (by omega), if_neg (by omega), if_neg (by omega), if_neg (by omega), if_pos (by omega)]
  congr 1
  ext; simp; omega

end Sys2Proof.Machine
end

