-- ==== Sys2Proof/Laws/Commands.lean ====
section
/-! SUPPORT. What each command can do, said once: every possible end of every meaning, with the checks that lead to it. -/

namespace Sys2Proof.Machine

/-- Every command ends in a next state: completed, or failed with a code (60_exceptions.md R214). -/
theorem finish_eq_next {s t : State} {r : Except ErrCode State} (h : finish s r = .next t) :
    (∃ u, r = .ok u ∧ t = u.complete) ∨ ∃ c, r = .error c ∧ t = s.fail c := by
  cases r with
  | ok u => cases h; exact .inl ⟨u, rfl, rfl⟩
  | error c => cases h; exact .inr ⟨c, rfl, rfl⟩

@[simp] theorem finish_ok (s t : State) : finish s (.ok t) = .next t.complete := rfl

@[simp] theorem finish_error (s : State) (c : ErrCode) : finish s (.error c) = .next (s.fail c) := rfl

@[simp] theorem exec_nop (s : State) : exec .nop s = execNop s := rfl
@[simp] theorem exec_clear (s : State) : exec .clear s = execClear s := rfl
@[simp] theorem exec_pad (s : State) : exec .pad s = execPad s := rfl
@[simp] theorem exec_init (s : State) : exec .init s = execInit s := rfl
@[simp] theorem exec_block (s : State) : exec .block s = execBlock s := rfl
@[simp] theorem exec_final (s : State) : exec .final s = execFinal s := rfl
@[simp] theorem exec_expand (s : State) : exec .expand s = execExpand s := rfl
@[simp] theorem exec_round (ridx : Nat) (s : State) : exec (.round ridx) s = execRound ridx s := rfl
@[simp] theorem exec_compress (s : State) : exec .compress s = execCompress s := rfl
@[simp] theorem exec_hash (s : State) : exec .hash s = execHash s := rfl
@[simp] theorem exec_hmac (s : State) : exec .hmac s = execHmac s := rfl

theorem execPad_cases {s t : State} (h : execPad s = .next t) :
    (s.phase ≠ .empty ∧ t = s.fail .sequence) ∨
    (s.phase = .empty ∧ s.params.msgMemBytes < s.msgLen.toNat ∧ t = s.fail .range) ∨
    (s.phase = .empty ∧ s.msgLen.toNat ≤ s.params.msgMemBytes ∧
      s.params.msgMemBytes < paddedLength s.msgLen.toNat ∧ t = s.fail .capacity) ∨
    (s.phase = .empty ∧ s.msgLen.toNat ≤ s.params.msgMemBytes ∧
      paddedLength s.msgLen.toNat ≤ s.params.msgMemBytes ∧ t = s.padInPlace.complete) := by
  unfold execPad at h
  split at h
  · next hp => cases h; exact .inl ⟨hp, rfl⟩
  · next hp =>
    split at h
    · next hr => cases h; exact .inr (.inl ⟨not_not.1 hp, hr, rfl⟩)
    · next hr =>
      split at h
      · next hc => cases h; exact .inr (.inr (.inl ⟨not_not.1 hp, not_lt.1 hr, hc, rfl⟩))
      · next hc => cases h; exact .inr (.inr (.inr ⟨not_not.1 hp, not_lt.1 hr, not_lt.1 hc, rfl⟩))

theorem execExpand_cases {s t : State} (h : execExpand s = .next t) :
    (s.params.msgMemBytes < s.blkOff.toNat + 64 ∧ t = s.fail .range) ∨
    (s.blkOff.toNat + 64 ≤ s.params.msgMemBytes ∧
      t = State.complete { s with w := expand (s.memRead s.blkOff.toNat 64) }) := by
  unfold execExpand at h
  split at h
  · next hr => cases h; exact .inl ⟨hr, rfl⟩
  · next hr => cases h; exact .inr ⟨not_lt.1 hr, rfl⟩

theorem execRound_cases {ridx : Nat} {s t : State} (h : execRound ridx s = .next t) :
    (80 ≤ ridx ∧ t = s.fail .range) ∨
    (∃ hr : ridx < 80, t = State.complete { s with v := roundStep ⟨ridx, hr⟩ s.v s.w[ridx] }) := by
  unfold execRound at h
  split at h
  · next hr => cases h; exact .inr ⟨hr, rfl⟩
  · next hr => cases h; exact .inl ⟨not_lt.1 hr, rfl⟩

theorem execInit_cases {s t : State} (h : execInit s = .next t) :
    (s.phase ≠ .padded ∧ t = s.fail .sequence) ∨
    (s.phase = .padded ∧ t = State.complete { s with h := iv, blkIdx := 0x00000000#32, phase := .processing }) := by
  unfold execInit at h
  split at h
  · next hp => cases h; exact .inl ⟨hp, rfl⟩
  · next hp => cases h; exact .inr ⟨not_not.1 hp, rfl⟩

theorem execBlock_cases {s t : State} (h : execBlock s = .next t) :
    ((s.phase ≠ .processing ∨ s.msgLen.toNat / 64 ≤ s.blkIdx.toNat) ∧ t = s.fail .sequence) ∨
    (s.phase = .processing ∧ s.blkIdx.toNat < s.msgLen.toNat / 64 ∧
      t = (s.advanceWith (hashBlock s.h (s.memRead (64 * s.blkIdx.toNat) 64))).complete) := by
  unfold execBlock at h
  split at h
  · next hp => cases h; exact .inl ⟨.inl hp, rfl⟩
  · next hp =>
    split at h
    · next hi => cases h; exact .inl ⟨.inr hi, rfl⟩
    · next hi => cases h; exact .inr ⟨not_not.1 hp, not_le.1 hi, rfl⟩

theorem execFinal_cases {s t : State} (h : execFinal s = .next t) :
    ((s.phase ≠ .processing ∨ s.blkIdx.toNat ≠ s.msgLen.toNat / 64) ∧ t = s.fail .sequence) ∨
    (s.phase = .processing ∧ s.blkIdx.toNat = s.msgLen.toNat / 64 ∧
      t = State.complete { s with dg := s.h, phase := .finalized }) := by
  unfold execFinal at h
  split at h
  · next hp => cases h; exact .inl ⟨.inl hp, rfl⟩
  · next hp =>
    split at h
    · next hi => cases h; exact .inl ⟨.inr hi, rfl⟩
    · next hi => cases h; exact .inr ⟨not_not.1 hp, not_not.1 hi, rfl⟩

theorem execHash_cases {s t : State} (h : execHash s = .next t) :
    (s.inplace = true ∧ t = s.fail .sequence) ∨
    (s.inplace = false ∧ s.params.msgMemBytes < s.msgLen.toNat ∧ t = s.fail .range) ∨
    (s.inplace = false ∧ s.msgLen.toNat ≤ s.params.msgMemBytes ∧
      t = (s.finalizeWith (digestPass (s.memRead 0 s.msgLen.toNat)) (blockCount s.msgLen.toNat)).complete) := by
  unfold execHash at h
  split at h
  · next hp => cases h; exact .inl ⟨hp, rfl⟩
  · next hp =>
    split at h
    · next hr => cases h; exact .inr (.inl ⟨Bool.eq_false_iff.2 hp, hr, rfl⟩)
    · next hr => cases h; exact .inr (.inr ⟨Bool.eq_false_iff.2 hp, not_lt.1 hr, rfl⟩)

theorem execHmac_cases {s t : State} (h : execHmac s = .next t) :
    (s.inplace = true ∧ t = s.fail .sequence) ∨
    (s.inplace = false ∧ (s.params.msgMemBytes < s.msgLen.toNat ∨ s.params.keyMemBytes < s.keyLen.toNat) ∧
      t = s.fail .range) ∨
    (s.inplace = false ∧ s.msgLen.toNat ≤ s.params.msgMemBytes ∧ s.keyLen.toNat ≤ s.params.keyMemBytes ∧
      t = (s.finalizeWith s.hmacPass 2).complete) := by
  unfold execHmac at h
  split at h
  · next hp => cases h; exact .inl ⟨hp, rfl⟩
  · next hp =>
    split at h
    · next hr => cases h; exact .inr (.inl ⟨Bool.eq_false_iff.2 hp, hr, rfl⟩)
    · next hr =>
      rw [not_or, not_lt, not_lt] at hr
      rw [finish_ok, outerInput_length] at h
      cases h
      exact .inr (.inr ⟨Bool.eq_false_iff.2 hp, hr.1, hr.2, rfl⟩)

/-- Every end of every command: failed with a code, or the state R214 completes, by command. -/
theorem exec_cases {i : Instr} {s t : State} (h : exec i s = .next t) :
    (∃ c, t = s.fail c) ∨ match i with
    | .nop => t = s.complete
    | .clear => t = State.complete { s with
        msgLen := if s.inplace then s.origLen else s.msgLen
        inplace := false
        phase := .empty
        blkIdx := 0x00000000#32 }
    | .pad => t = s.padInPlace.complete
    | .init => t = State.complete { s with h := iv, blkIdx := 0x00000000#32, phase := .processing }
    | .block => t = (s.advanceWith (hashBlock s.h (s.memRead (64 * s.blkIdx.toNat) 64))).complete
    | .final => t = State.complete { s with dg := s.h, phase := .finalized }
    | .expand => t = State.complete { s with w := expand (s.memRead s.blkOff.toNat 64) }
    | .round r => ∃ hr : r < 80, t = State.complete { s with v := roundStep ⟨r, hr⟩ s.v s.w[r] }
    | .compress => t = State.complete { s with h := (compress s.h s.w).1, v := (compress s.h s.w).2 }
    | .hash => t = (s.finalizeWith (digestPass (s.memRead 0 s.msgLen.toNat)) (blockCount s.msgLen.toNat)).complete
    | .hmac => t = (s.finalizeWith s.hmacPass 2).complete := by
  cases i with
  | nop => cases h; exact .inr rfl
  | clear => cases h; exact .inr rfl
  | pad =>
    rcases execPad_cases h with ⟨_, e⟩ | ⟨_, _, e⟩ | ⟨_, _, _, e⟩ | ⟨_, _, _, e⟩
    · exact .inl ⟨_, e⟩
    · exact .inl ⟨_, e⟩
    · exact .inl ⟨_, e⟩
    · exact .inr e
  | init => exact (execInit_cases h).imp (fun e => ⟨_, e.2⟩) (fun e => e.2)
  | block => exact (execBlock_cases h).imp (fun e => ⟨_, e.2⟩) (fun e => e.2.2)
  | final => exact (execFinal_cases h).imp (fun e => ⟨_, e.2⟩) (fun e => e.2.2)
  | expand => exact (execExpand_cases h).imp (fun e => ⟨_, e.2⟩) (fun e => e.2)
  | round r => exact (execRound_cases h).imp (fun e => ⟨_, e.2⟩) id
  | compress => cases h; exact .inr rfl
  | hash =>
    rcases execHash_cases h with ⟨_, e⟩ | ⟨_, _, e⟩ | ⟨_, _, e⟩
    · exact .inl ⟨_, e⟩
    · exact .inl ⟨_, e⟩
    · exact .inr e
  | hmac =>
    rcases execHmac_cases h with ⟨_, e⟩ | ⟨_, _, e⟩ | ⟨_, _, _, e⟩
    · exact .inl ⟨_, e⟩
    · exact .inl ⟨_, e⟩
    · exact .inr e

/-- Every byte of the message memory after PAD (41_padding.md R152). -/
theorem State.msgByte_padInPlace (s : State) (a : Nat) : s.padInPlace.msgByte a =
    if s.msgLen.toNat ≤ a ∧ a < paddedLength s.msgLen.toNat then
      ([0x80#8] ++ List.replicate (padZeros s.msgLen.toNat) 0x00#8 ++ bytes64 (8 * s.msgLen.toNat)).getD
        (a - s.msgLen.toNat) 0
    else s.msgByte a := by
  have e : s.padInPlace.msgByte a = (s.storePadding s.msgLen.toNat).msgByte a := State.msgByte_congr rfl rfl a
  rw [e, State.storePadding, State.msgByte_memWrite, State.msgByte_memWrite, State.msgByte_memWrite]
  generalize s.msgLen.toNat = L
  have := padZeros_lt L
  have hpl : paddedLength L = L + 9 + padZeros L := rfl
  simp only [bytes64_length, List.length_replicate, List.length_cons, List.length_nil]
  by_cases h1 : L + 1 + padZeros L ≤ a ∧ a < L + 1 + padZeros L + 8
  · rw [if_pos h1, if_pos (by omega)]
    have h2 : ([0x80#8] ++ List.replicate (padZeros L) 0x00#8).length ≤ a - L := by simp; omega
    rw [List.getD_append_right _ _ _ _ h2]
    congr 1; simp; omega
  · rw [if_neg h1]
    by_cases h2 : L + 1 ≤ a ∧ a < L + 1 + padZeros L
    · rw [if_pos h2, if_pos (by omega), List.getD_append _ _ _ _ (by simp; omega),
        List.getD_append_right _ _ _ _ (by simp; omega)]
      rfl
    · rw [if_neg h2]
      by_cases h3 : L ≤ a ∧ a < L + (0 + 1)
      · rw [if_pos h3, if_pos (by omega), show a - L = 0 by omega]; rfl
      · rw [if_neg h3, if_neg (by omega)]

/-- The padded length fits its register (41_padding.md R152, 00_scope.md R10). -/
theorem State.padInPlace_msgLen_toNat {s : State} (wf : s.params.WellFormed)
    (hc : paddedLength s.msgLen.toNat ≤ s.params.msgMemBytes) :
    s.padInPlace.msgLen.toNat = paddedLength s.msgLen.toNat := by
  obtain ⟨_, _, _, _, _, _⟩ := wf
  simp; omega

end Sys2Proof.Machine
end

