-- ==== Sys2Proof/Laws/PerInstr.lean ====
section
/-! SUPPORT. Per-command statements: the fields of every command's word (30_encoding.md R110-R113). -/

namespace Sys2Proof.Laws.EncodingShape

/-- The word of a well-formed command has RSV = 0, the OP of R111's table, and RIDX = 0 but for ROUND, whose RIDX is its
index. -/
def Statement (i : Instr) : Prop :=
  i.WellFormed → rsvField (encode i) = 0 ∧ opField (encode i) = opcodeOf i ∧
    ridxField (encode i) = match i with | .round ridx => ridx | _ => 0

theorem nop : Statement .nop := fun _ => by decide
theorem clear : Statement .clear := fun _ => by decide
theorem pad : Statement .pad := fun _ => by decide
theorem init : Statement .init := fun _ => by decide
theorem block : Statement .block := fun _ => by decide
theorem final : Statement .final := fun _ => by decide
theorem expand : Statement .expand := fun _ => by decide

theorem round (ridx : Nat) : Statement (.round ridx) := by
  intro h
  have e : ∀ k : Fin 256, rsvField (encode (.round k.val)) = 0 ∧ opField (encode (.round k.val)) = 0x07 ∧
      ridxField (encode (.round k.val)) = k.val := by decide +kernel
  exact e ⟨ridx, h⟩

theorem compress : Statement .compress := fun _ => by decide
theorem hash : Statement .hash := fun _ => by decide
theorem hmac : Statement .hmac := fun _ => by decide

end Sys2Proof.Laws.EncodingShape
end

