-- ==== Sys2Proof/Laws/Step.lean ====
section
/-! SUPPORT. What one step can do, said once: every end of a step, of the engine's turn and of the host's turn. -/

namespace Sys2Proof.Machine

/-- Every end of a step in a next state (20_memory.md R95). -/
theorem step_cases {s t : State} (h : step s = .next t) :
    (s.turn = none ∧ t = s) ∨
    (s.turn = some .host ∧ hostStep s.dropTurn = .next t) ∨
    (s.turn = some .engine ∧ engineStep s.dropTurn = .next t) ∨
    (s.turn = some .reset ∧ t = s.dropTurn.assertReset) := by
  unfold step at h
  split at h
  · next hT => cases h; exact .inl ⟨hT, rfl⟩
  · next hT => exact .inr (.inl ⟨hT, h⟩)
  · next hT => exact .inr (.inr (.inl ⟨hT, h⟩))
  · next hT => cases h; exact .inr (.inr (.inr ⟨hT, rfl⟩))

/-- Every end of the engine's turn in a next state (R95, 30_encoding.md R114). -/
theorem engineStep_cases {s t : State} (h : engineStep s = .next t) :
    (s.busy = false ∧ t = s) ∨
    (∃ word i, s.busy = true ∧ s.pend = some word ∧ decode word = .ok i ∧ exec i s = .next t) ∨
    (∃ word r, s.busy = true ∧ s.pend = some word ∧ decode word = .error r ∧ t = s.fail .illegalCmd) := by
  unfold engineStep at h
  split at h
  · next hb =>
    split at h
    · next word hp =>
      unfold performWord at h
      split at h
      · next i hd => exact .inr (.inl ⟨word, i, hb, hp, hd, h⟩)
      · next r hd => cases h; exact .inr (.inr ⟨word, r, hb, hp, hd, rfl⟩)
    · cases h
  · next hb => cases h; exact .inl ⟨Bool.eq_false_iff.2 hb, rfl⟩

/-- Every end of the host's turn in a next state (R82). -/
theorem hostStep_cases {s t : State} (h : hostStep s = .next t) :
    (s.script = [] ∧ t = s) ∨
    (∃ offset x rest, s.script = .wr offset x :: rest ∧ offset.toNat % 4 = 0 ∧ offset.toNat < spanBytes s.params ∧
      t = (s.writeLoc (locOf s.params offset.toNat) x).dropOp) ∨
    (∃ offset rest, s.script = .rd offset :: rest ∧ offset.toNat % 4 = 0 ∧ offset.toNat < spanBytes s.params ∧
      t = (s.hostRead (locOf s.params offset.toNat)).dropOp) ∨
    (∃ rest, s.script = .wait :: rest ∧ t = s.poll) := by
  unfold hostStep at h
  split at h
  · next hs => cases h; exact .inl ⟨hs, rfl⟩
  · next offset x rest hs =>
    rcases access_cases s offset (fun l => (s.writeLoc l x).dropOp) with ⟨_, e⟩ | ⟨_, _, e⟩ | ⟨h1, h2, e⟩ <;> rw [e] at h
    · cases h
    · cases h
    · cases h; exact .inr (.inl ⟨offset, x, rest, hs, h1, h2, rfl⟩)
  · next offset rest hs =>
    rcases access_cases s offset (fun l => (s.hostRead l).dropOp) with ⟨_, e⟩ | ⟨_, _, e⟩ | ⟨h1, h2, e⟩ <;> rw [e] at h
    · cases h
    · cases h
    · cases h; exact .inr (.inr (.inl ⟨offset, rest, hs, h1, h2, rfl⟩))
  · next rest hs => cases h; exact .inr (.inr (.inr ⟨rest, hs, rfl⟩))
  · cases h

/-- The step of the engine on a pending command (R95). -/
theorem step_engine {s : State} (h : s.turn = some .engine) : step s = engineStep s.dropTurn := by simp [step, h]

/-- The step of the host. -/
theorem step_host {s : State} (h : s.turn = some .host) : step s = hostStep s.dropTurn := by simp [step, h]

/-- After `withCommand` the engine moves next. -/
@[simp] theorem State.withCommand_turn (word : Word) (s : State) : (s.withCommand word).turn = some .engine := by
  simp [State.turn]

/-- The step of the host on a write of a location (20_memory.md R82). -/
theorem step_write {s : State} {offset x : Word} {l : Loc} (h : HostOpNext s (.wr offset x)) (h4 : offset.toNat % 4 = 0)
    (hs : offset.toNat < 0x10000 + s.params.msgMemBytes) (hl : locOf s.params offset.toNat = l) :
    step s = .next (s.dropTurn.writeLoc l x).dropOp := by
  obtain ⟨ht, hh⟩ := h
  rw [step_host ht]
  cases he : s.script with
  | nil => rw [he] at hh; cases hh
  | cons op rest =>
    rw [he] at hh; cases hh
    rw [hostStep, show s.dropTurn.script = _ from he]
    exact access_at (s := s.dropTurn) _ h4 hs hl

/-- The step of the host on a read of a location. -/
theorem step_read {s : State} {offset : Word} {l : Loc} (h : HostOpNext s (.rd offset)) (h4 : offset.toNat % 4 = 0)
    (hs : offset.toNat < 0x10000 + s.params.msgMemBytes) (hl : locOf s.params offset.toNat = l) :
    step s = .next (s.dropTurn.hostRead l).dropOp := by
  obtain ⟨ht, hh⟩ := h
  rw [step_host ht]
  cases he : s.script with
  | nil => rw [he] at hh; cases hh
  | cons op rest =>
    rw [he] at hh; cases hh
    rw [hostStep, show s.dropTurn.script = _ from he]
    exact access_at (s := s.dropTurn) _ h4 hs hl

/-- The host acknowledges an error by a STATUS write whose bit 2 is 1 (60_exceptions.md R218). -/
theorem step_acknowledges {s : State} (h : HostOpNext s (.wr 0x008 0x00000004#32)) :
    step s = .next s.dropTurn.acknowledgeError.dropOp := by
  rw [step_write (l := .status) h (by decide) (by show 8 < _; omega) rfl, State.writeLoc_idle (.inr rfl)]
  rfl

/-- The engine's step on a pending word (R95, 30_encoding.md R114). -/
theorem step_performs {s : State} {word : Word} (h : WordPending s word) : step s = performWord word s.dropTurn := by
  obtain ⟨h1, h2, h3⟩ := h
  simp [step, h1, engineStep, h2, h3]

/-- The first command of a sequence. -/
theorem runCommands_cons {i : Instr} {is : List Instr} {s t : State} (h : exec i s = .next t) :
    runCommands (i :: is) s = runCommands is t := by
  conv_lhs => unfold runCommands
  rw [h]

/-- A sequence of commands after another. -/
theorem runCommands_append {a b : List Instr} {s t : State} (h : runCommands a s = .next t) :
    runCommands (a ++ b) s = runCommands b t := by
  induction a generalizing s with
  | nil => cases h; rfl
  | cons i a ih =>
    rw [List.cons_append]
    cases he : exec i s with
    | next u => rw [runCommands_cons he] at h ⊢; exact ih h
    | fault f => simp [runCommands, he] at h
    | refused f => simp [runCommands, he] at h

end Sys2Proof.Machine
end

