-- ==== Sys2Proof/Tests/Slice0.lean ====
section
/-! SUPPORT. Tests on the spec's own values (95_test_vectors.md, 30_encoding.md), the smoke test of well-formedness, and a
witness for the hypotheses of every obligation that has some. -/

namespace Sys2Proof.Tests

open Sys2Proof.Machine

/-! Well-formedness: the one check, and a term it refuses (30_encoding.md R112) -/

theorem test_wellFormed_refuses_a_wide_round_index : ¬ (Instr.round 256).WellFormed := by decide
theorem test_wellFormed_accepts_the_widest_round_index : (Instr.round 255).WellFormed := by decide

/-! Decoding: words written out from R111's table and from the programs of 95_test_vectors.md -/

theorem test_decode_nop : decode 0b00000000000000000000000000000000#32 = .ok .nop := by decide
theorem test_decode_clear : decode 0b00000000000000000000000000000001#32 = .ok .clear := by decide
theorem test_decode_pad : decode 0b00000000000000000000000000000010#32 = .ok .pad := by decide
theorem test_decode_init : decode 0b00000000000000000000000000000011#32 = .ok .init := by decide
theorem test_decode_block : decode 0b00000000000000000000000000000100#32 = .ok .block := by decide
theorem test_decode_final : decode 0b00000000000000000000000000000101#32 = .ok .final := by decide
theorem test_decode_expand : decode 0b00000000000000000000000000000110#32 = .ok .expand := by decide
theorem test_decode_round_19 : decode 0b00000000000000000001001100000111#32 = .ok (.round 19) := by decide
theorem test_decode_round_80 : decode 0b00000000000000000101000000000111#32 = .ok (.round 80) := by decide
theorem test_decode_compress : decode 0b00000000000000000000000000001000#32 = .ok .compress := by decide
theorem test_decode_hash : decode 0b00000000000000000000000000001001#32 = .ok .hash := by decide
theorem test_decode_hmac : decode 0b00000000000000000000000000001010#32 = .ok .hmac := by decide

/-- V-ERR-12 to V-ERR-12e and V-RND-3. -/
theorem test_decode_rejects_by_name :
    decode 0x00000100#32 = .error .strayIndex ∧ decode 0x0000000B#32 = .error .reservedOpcode ∧
    decode 0x000000FF#32 = .error .reservedOpcode ∧ decode 0x00010009#32 = .error .reservedBits ∧
    decode 0x80000000#32 = .error .reservedBits ∧ decode 0x00015007#32 = .error .reservedBits := by decide

theorem test_decodeTableWord : decodeTableWord 32 0x4F07 = some (.round 79) ∧ decodeTableWord 32 0x000B = none ∧
    decodeTableWord 32 0x0A = some .hmac := by decide

/-! The commands, one step each. Expected values: the vectors named. -/

/-- The test holds of the next state. -/
def next (r : Result) (p : State → Bool) : Bool := match r with | .next t => p t | .fault _ => false | .refused _ => false

/-- The five words of a register file. -/
def five (a b c d e : Word) : Quint := { w0 := a, w1 := b, w2 := c, w3 := d, w4 := e }

def abc : List Byte := [0x61#8, 0x62#8, 0x63#8]

def foxKey : List Byte := [0x6B#8, 0x65#8, 0x79#8]

/-- "The quick brown fox jumps over the lazy dog". -/
def fox : List Byte :=
  [0x54#8, 0x68#8, 0x65#8, 0x20#8, 0x71#8, 0x75#8, 0x69#8, 0x63#8, 0x6B#8, 0x20#8] ++
  [0x62#8, 0x72#8, 0x6F#8, 0x77#8, 0x6E#8, 0x20#8, 0x66#8, 0x6F#8, 0x78#8, 0x20#8] ++
  [0x6A#8, 0x75#8, 0x6D#8, 0x70#8, 0x73#8, 0x20#8, 0x6F#8, 0x76#8, 0x65#8, 0x72#8] ++
  [0x20#8, 0x74#8, 0x68#8, 0x65#8, 0x20#8, 0x6C#8, 0x61#8, 0x7A#8, 0x79#8, 0x20#8] ++ [0x64#8, 0x6F#8, 0x67#8]

/-- After reset, a key and a message loaded. -/
def loaded (key msg : List Byte) : State :=
  { State.reset with
    msgMem := Memory.writeBytes [] 0 msg, msgLen := BitVec.ofNat 32 msg.length
    keyMem := Memory.writeBytes [] 0 key, keyLen := BitVec.ofNat 32 key.length }

/-- The block of "abc" of V-PAD-2. -/
def abcBlock : List Byte := abc ++ [0x80#8] ++ List.replicate 59 0x00#8 ++ [0x18#8]

/-- After PAD on "abc" (V-PAD-2), with the phase of choice. -/
def paddedAbc (p : Phase) : State :=
  { State.reset with
    msgMem := Memory.writeBytes [] 0 abcBlock, msgLen := 64, origLen := 3, inplace := true, phase := p }

/-- The digest of "abc" (V-L1-2). -/
def abcDigest : Quint := five 0xA9993E36 0x4706816A 0xBA3E2571 0x7850C26C 0x9CD0D89D

theorem test_nop_status : next (exec .nop State.reset) (fun t => t.statusWord == 0x00000002#32) = true := by decide

theorem test_clear_restores_the_length : next (exec .clear (paddedAbc .padded))
    (fun t => t.msgLen == 3 && t.statusWord == 0x00000002#32) = true := by decide

theorem test_pad_abc : next (exec .pad (loaded [] abc)) (fun t => t.msgWindowWord 0 == 0x61626380#32 &&
    t.msgWindowWord 60 == 0x00000018#32 && t.msgLen == 64 && t.origLen == 3 && t.statusWord == 0x0000001A#32) = true := by
  decide +kernel

/-- V-PAD-3 at 4088. -/
theorem test_pad_capacity : next (exec .pad { State.reset with msgLen := 4088 })
    (fun t => t.statusWord == 0x00000406#32 && t.msgLen == 4088) = true := by decide

theorem test_init_loads_iv : next (exec .init (paddedAbc .padded))
    (fun t => t.h.w0 == 0x67452301#32 && t.h.w4 == 0xC3D2E1F0#32 && t.statusWord == 0x0000002A#32) = true := by decide

/-- V-ERR-1. -/
theorem test_init_sequence : next (exec .init State.reset) (fun t => t.statusWord == 0x00000206#32) = true := by decide

/-- V-SEQ-1, V-CMP-1. -/
theorem test_block_abc : next (exec .block { paddedAbc .processing with h := iv }) (fun t => t.h == abcDigest &&
    t.v == five 0x42541B35 0x5738D5E1 0x21834873 0x681E6DF6 0xD8FDF6AD && t.blkIdx == 1 &&
    t.statusWord == 0x0000002A#32) = true := by decide +kernel

/-- V-ERR-8. -/
theorem test_block_past_the_end : next (exec .block { paddedAbc .processing with blkIdx := 1 })
    (fun t => t.statusWord == 0x0000022E#32 && t.blkIdx == 1) = true := by decide

theorem test_final_abc : next (exec .final { paddedAbc .processing with h := abcDigest, blkIdx := 1 })
    (fun t => t.dg == abcDigest && t.statusWord == 0x0000003A#32) = true := by decide

/-- V-ERR-6. -/
theorem test_final_too_early : next (exec .final (paddedAbc .processing))
    (fun t => t.statusWord == 0x0000022E#32) = true := by decide

/-- V-SCH-3: byte a of the memory holds a. -/
theorem test_expand_unaligned :
    next (exec .expand { loaded [] ((List.range 65).map (BitVec.ofNat 8)) with blkOff := 1 })
    (fun t => t.w[0] == 0x01020304#32 && t.w[15] == 0x3D3E3F40#32 && t.w[16] == 0x38383828#32 &&
      t.w[79] == 0x7B683C84#32) = true := by decide +kernel

/-- V-SCH-4. -/
theorem test_expand_range : next (exec .expand { State.reset with blkOff := 0x00000FC1 })
    (fun t => t.statusWord == 0x00000306#32) = true := by decide

/-- V-RND-1. -/
theorem test_round_0_abc : next (exec (.round 0) { State.reset with v := iv, w := State.reset.w.set 0 0x61626380 })
    (fun t => t.v == five 0x0116FC33 0x67452301 0x7BF36AE2 0x98BADCFE 0x10325476) = true := by decide +kernel

/-- V-RND-3. -/
theorem test_round_80 : next (exec (.round 80) State.reset) (fun t => t.statusWord == 0x00000306#32) = true := by decide

/-- V-CMP-2. -/
theorem test_compress_reset : next (exec .compress State.reset)
    (fun t => t.h == five 0x9E1547ED 0x57EC91C2 0x30FA8BC8 0xC7785A54 0xA7EFA5E3 && t.v == t.h) = true := by
  decide +kernel

/-- V-L1-2, program P1. -/
theorem test_hash_abc : next (exec .hash (loaded [] abc)) (fun t => t.dg == abcDigest && t.blkIdx == 1 &&
    t.w[79] == 0x822E0879#32 && t.msgLen == 3 && t.statusWord == 0x00000032#32) = true := by decide +kernel

/-- V-ERR-11b. -/
theorem test_hash_range : next (exec .hash { State.reset with msgLen := 4097 })
    (fun t => t.statusWord == 0x00000306#32) = true := by decide

/-- V-L1-4, V-HM-1. -/
theorem test_hmac_fox : next (exec .hmac (loaded foxKey fox)) (fun t =>
    t.dg == five 0xDE7C9B85 0xB8B78AA6 0xBC8A7A36 0xF70A9070 0x1C9DB4D9 &&
    t.w[0] == 0x0EFE15F9#32 && t.blkIdx == 2 && t.statusWord == 0x00000032#32) = true := by decide +kernel

/-- V-HM-8. -/
theorem test_hmac_range : next (exec .hmac { State.reset with keyLen := 257 })
    (fun t => t.statusWord == 0x00000306#32) = true := by decide

/-! Steps of the host and of the engine -/

/-- After reset, one host operation to do, and the host to move. -/
def host (op : HostOp) : State := { State.reset with script := [op], schedule := [.host] }

/-- The same with NOP pending. -/
def busyHost (op : HostOp) : State :=
  { State.reset with script := [op], schedule := [.host], cmd := 0, pend := some 0, busy := true }

/-- V-ERR-12. -/
theorem test_illegal_word : next (step (State.reset.withFetchWord 32 0x00000100))
    (fun t => t.statusWord == 0x00000106#32) = true := by decide

/-- 30_encoding.md R121's example `wr CMD, 0x0000_1107` issues ROUND 17. -/
theorem test_cmd_write : next (step (host (.wr 0x004 0x00001107)))
    (fun t => t.busy && t.pend == some 0x00001107#32 && !t.done) = true := by decide

/-- V-ERR-14: the H0 write while BUSY. -/
theorem test_busy_refusal : next (step (busyHost (.wr 0x040 5)))
    (fun t => t.statusWord == 0x00000505#32 && t.h.w0 == 0) = true := by decide

/-- V-ERR-15. -/
theorem test_msgLen_write_inplace :
    next (step { paddedAbc .padded with script := [.wr 0x010 10], schedule := [.host] })
    (fun t => t.statusWord == 0x0000021C#32 && t.msgLen == 64) = true := by decide

/-- V-IRQ-2: enabling IE_DONE when DONE is 1 already. -/
theorem test_irq_on_enable : next (step { host (.wr 0x00C 1) with done := true }) (fun t => t.irq) = true := by decide

/-- Program P1: `wr MSG+0, 0x6162_6300` puts "abc" and a zero byte at 0..3. -/
theorem test_window_write : next (step (host (.wr 0x10000 0x61626300)))
    (fun t => t.msgMem == [(0, 0x61#8), (1, 0x62#8), (2, 0x63#8), (3, 0x00#8)]) = true := by decide

theorem test_read_id : next (step (host (.rd 0x000))) (fun t => t.reads == [0x53484131#32]) = true := by decide

/-- V-ERR-16: the unmapped offset 0x024. -/
theorem test_read_unmapped : next (step (host (.rd 0x024))) (fun t => t.reads == [0x00000000#32]) = true := by decide

theorem test_misaligned : step (host (.wr 0x002 0)) = .fault .hostProtocol := by rfl

/-- V-RST-2. -/
theorem test_reset_while_busy : next (step { busyHost .wait with schedule := [.reset], h := iv })
    (fun t => t.statusWord == 0 && t.pend == none && t.h == .zero) = true := by decide

/-- V-DP-4, 5, 6, 8. -/
theorem test_rotl32 : rotl32 0x80000000 1 = 0x00000001#32 ∧ rotl32 0x00000001 30 = 0x40000000#32 ∧
    rotl32 0x12345678 5 = 0x468ACF02#32 ∧ rotl32 0x67452301 5 = 0xE8A4602C#32 := by decide

/-- V-DP-9 to V-DP-16. -/
theorem test_nonlinear : [0, 19, 20, 39, 40, 59, 60, 79].map (fun i : Fin 80 =>
    nonlinear i 0xF0F0F0F0 0xFF00FF00 0x0F0F0F0F) =
    [0xFF0FFF0F#32, 0xFF0FFF0F#32, 0x00FF00FF#32, 0x00FF00FF#32, 0xFF00FF00#32, 0xFF00FF00#32, 0x00FF00FF#32,
      0x00FF00FF#32] := by decide

/-- V-PAD-1: z and the padded length at the block boundaries. -/
theorem test_padding_boundaries : [0, 1, 55, 56, 63, 64, 119, 120].map (fun n => (padZeros n, paddedLength n)) =
    [(55, 64), (54, 64), (0, 64), (63, 128), (56, 128), (55, 128), (0, 128), (63, 192)] := by decide

/-- 30_encoding.md R122: `wrmsg "abc"` and `run HASH`, as program P1 spells them out. -/
theorem test_pseudo_instructions : wrmsgOps abc ++ runOps .hash =
    [.wr 0x10000 0x61626300, .wr 0x010 3, .wr 0x004 0x00000009, .wait] := by decide

/-! Witnesses: concrete states and operands that meet the hypotheses of each obligation that has some, every clause at a
boundary value -/

/-- The states built below have the capacities of the test vectors. -/
theorem reset_params : State.reset.params.WellFormed := by decide

theorem busyHost_params (op : HostOp) : (busyHost op).params.WellFormed := show Params.testVectors.WellFormed by decide

theorem host_params (op : HostOp) : (host op).params.WellFormed := show Params.testVectors.WellFormed by decide

theorem reset_memories_canonical : State.reset.msgMem.wf = true ∧ State.reset.keyMem.wf = true := by decide

/-- Every host operation can come next. -/
theorem host_op_next (op : HostOp) : HostOpNext (host op) op := ⟨rfl, rfl⟩

theorem busyHost_op_next (op : HostOp) : HostOpNext (busyHost op) op ∧ (busyHost op).busy = true := ⟨⟨rfl, rfl⟩, rfl⟩

/-- Every word can be pending. -/
theorem word_pending (w : Word) : WordPending (State.reset.withCommand w) w := ⟨rfl, rfl, rfl⟩

theorem witness_DecodingAnEncodedCommandGivesItBack :
    (Instr.round 0).WellFormed ∧ (Instr.round 255).WellFormed ∧ Instr.hmac.WellFormed := by decide

theorem witness_EveryLegalWordIsItsCommandsWord :
    decode 0x0000FF07#32 = .ok (.round 255) ∧ decode 0x0000000A#32 = .ok .hmac := by decide

theorem witness_EngineDecodesAndDispatchesEveryWord :
    WordPending (State.reset.withCommand 0x00010000#32) 0x00010000#32 ∧ (0x00010000#32).toNat / 2 ^ 16 ≠ 0 ∧
    WordPending (State.reset.withCommand 0x0000000B#32) 0x0000000B#32 ∧ 0x0A < (0x0000000B#32).toNat % 2 ^ 8 ∧
    WordPending (State.reset.withCommand 0x00000100#32) 0x00000100#32 ∧
    ((0x00000100#32).toNat % 2 ^ 8 ≠ 0x07 ∧ (0x00000100#32).toNat / 2 ^ 8 % 2 ^ 8 ≠ 0) ∧
    WordPending (State.reset.withCommand 0x0000000A#32) 0x0000000A#32 ∧ (0x0000000A#32).toNat = 0x0A ∧
    WordPending (State.reset.withCommand 0x0000FF07#32) 0x0000FF07#32 ∧ (0x0000FF07#32).toNat = 255 * 2 ^ 8 + 0x07 ∧
    HostOpNext (host (.wr 0x004 0x80000000)) (.wr 0x004 0x80000000) ∧ (host (.wr 0x004 0x80000000)).busy = false :=
  ⟨word_pending _, by decide, word_pending _, by decide, word_pending _, by decide, word_pending _, by decide,
    word_pending _, by decide, host_op_next _, rfl⟩

theorem witness_EngineStepRunsTheDecodedCommand :
    WordPending (State.reset.withCommand 0x00004F07#32) 0x00004F07#32 ∧ decode 0x00004F07#32 = .ok (.round 79) :=
  ⟨word_pending _, by decide⟩

theorem witness_PlacedWordRunsAtTheNextStep : decode 0x00000000#32 = .ok .nop := by decide

theorem witness_IdleBlockKeepsItsState :
    (State.turn { State.reset with schedule := [.engine] } = some .engine ∧ State.reset.busy = false) ∧
    State.reset.turn = none := by decide

theorem witness_InitLoadsTheIvInPaddedOnly : (paddedAbc .padded).phase = .padded ∧ State.reset.phase ≠ .padded := by decide

theorem witness_BlockProcessesTheNextBlock :
    ((paddedAbc .processing).phase = .processing ∧
      (paddedAbc .processing).blkIdx.toNat < (paddedAbc .processing).msgLen.toNat / 64) ∧
    State.reset.phase ≠ .processing ∧
    (paddedAbc .processing).msgLen.toNat / 64 ≤ (State.blkIdx { paddedAbc .processing with blkIdx := 1 }).toNat := by decide

theorem witness_FinalCopiesTheStateIntoTheDigest :
    (paddedAbc .processing).phase = .processing ∧
    (State.blkIdx { paddedAbc .processing with blkIdx := 1 }).toNat = (paddedAbc .processing).msgLen.toNat / 64 ∧
    (paddedAbc .processing).blkIdx.toNat ≠ (paddedAbc .processing).msgLen.toNat / 64 ∧
    State.reset.phase ≠ .processing := by decide

theorem witness_ExpandWritesTheScheduleOfTheBlockAtBlkOff :
    State.reset.params.WellFormed ∧ State.reset.params.msgMemBytes - 64 < (4033#32).toNat ∧
    (4032#32).toNat ≤ State.reset.params.msgMemBytes - 64 := by decide

theorem witness_RoundPerformsOneRound : 79 < 80 ∧ 80 ≤ 80 ∧ 255 < 256 := by decide

theorem witness_CompressChainsEightyRoundsIntoTheState : ∃ q : Nat → Quint, q 0 = State.reset.h ∧
    ∀ (i : Nat) (hi : i < 80), q (i + 1) = roundStep ⟨i, hi⟩ (q i) State.reset.w[i] := by
  refine ⟨fun n => Nat.rec State.reset.h
    (fun i y => if hi : i < 80 then roundStep ⟨i, hi⟩ y State.reset.w[i] else y) n, rfl, fun i hi => ?_⟩
  simp [hi]

theorem witness_EightyRoundCommandsLeaveTheWorkingValuesOfCompress : State.reset.v = State.reset.h := by decide

theorem witness_PadAppendsThePaddingInPlace :
    State.reset.params.WellFormed ∧ (paddedAbc .padded).phase ≠ .empty ∧ State.reset.phase = .empty ∧
    State.reset.params.msgMemBytes < 4097 ∧
    (4088 ≤ State.reset.params.msgMemBytes ∧
      State.reset.params.msgMemBytes < 4088 + 9 + ((55 - (4088 : Int)) % 64).toNat) ∧
    4087 + 9 + ((55 - (4087 : Int)) % 64).toNat ≤ State.reset.params.msgMemBytes ∧
    (54 < ((55 - (0 : Int)) % 64).toNat ∧ 7 < 8) := by decide

theorem witness_PaddedMemoryHoldsThePaddedMessage :
    State.reset.params.WellFormed ∧ State.reset.phase = .empty ∧
    paddedLength (State.msgLen { State.reset with msgLen := 4087 }).toNat ≤ State.reset.params.msgMemBytes := by decide

theorem witness_ClearUndoesPadAndPadRepeats :
    (loaded [] abc).params.WellFormed ∧ (loaded [] abc).phase = .empty ∧
    paddedLength (loaded [] abc).msgLen.toNat ≤ (loaded [] abc).params.msgMemBytes := by decide

theorem witness_HashDigestsTheMessage :
    (paddedAbc .padded).inplace = true ∧ State.reset.inplace = false ∧ State.reset.params.msgMemBytes < 4097 ∧
    4096 ≤ State.reset.params.msgMemBytes := by decide

theorem witness_HmacComputesTheTag :
    (paddedAbc .padded).inplace = true ∧ State.reset.inplace = false ∧ State.reset.params.msgMemBytes < 4097 ∧
    State.reset.params.keyMemBytes < 257 ∧ 4096 ≤ State.reset.params.msgMemBytes ∧
    256 ≤ State.reset.params.keyMemBytes := by decide

theorem witness_HashMatchesTheStepByStepPath :
    (loaded [] abc).params.WellFormed ∧ (loaded [] abc).phase = .empty ∧ (loaded [] abc).inplace = false ∧
    paddedLength (loaded [] abc).msgLen.toNat ≤ (loaded [] abc).params.msgMemBytes := by decide

theorem witness_AdderWrapsAndRotatorRotates : 1 ≤ 1 ∧ 1 ≤ 31 ∧ 31 ≤ 31 := by decide

theorem witness_RotationsComposeAndCommuteWithXor : 0 ≤ 31 ∧ 31 ≤ 31 := by decide

theorem witness_NonlinearFunctionFollowsTheRoundIndex :
    (19 : Fin 80).val < 20 ∧ (20 ≤ (20 : Fin 80).val ∧ (39 : Fin 80).val < 40) ∧
    (40 ≤ (40 : Fin 80).val ∧ (59 : Fin 80).val < 60) ∧ 60 ≤ (60 : Fin 80).val := by decide

theorem witness_PaddingInvariant :
    (padBytes []).length = 64 ∧ ([] : List Byte).length < 1 ∧ 55 < (padBytes []).length - 8 := by decide

theorem witness_DigestPassLoopsOverThePaddedBlocks : ∃ q : Nat → Quint, q 0 = iv ∧ ∀ b, b < (padBytes abc).length / 64 →
    q (b + 1) = (compress (q b) (expand (((padBytes abc).drop (64 * b)).take 64))).1 :=
  ⟨fun n => Nat.rec iv (fun b y => (compress y (expand (((padBytes abc).drop (64 * b)).take 64))).1) n, rfl,
    fun _ _ => rfl⟩

/-- Both ends are met with ERR = 1 before: NOP succeeds, INIT fails in EMPTY. -/
theorem witness_EveryCommandCompletesAllOrNothing :
    (∃ t u, exec .nop { State.reset with err := true, errCode := .range } = .next t ∧
      exec .nop State.reset = .next u ∧ u.err = false ∧ t.errCode = .range) ∧
    ∃ t u, exec .init { State.reset with err := true, errCode := .range } = .next t ∧
      exec .init State.reset = .next u ∧ u.err = true ∧ u.errCode = .sequence ∧ t.errCode = .range :=
  ⟨⟨_, _, rfl, rfl, rfl, rfl⟩, ⟨_, _, rfl, rfl, rfl, rfl, rfl⟩⟩

theorem witness_CommandsLeaveInputsAndMemoriesAlone : ∃ t, exec .nop State.reset = .next t ∧ Instr.nop ≠ .pad :=
  ⟨_, rfl, by decide⟩

theorem witness_OnlyTheNamedCommandsWriteTheRegisterFiles : ∃ t, exec .clear State.reset = .next t ∧
    Instr.clear ∉ [Instr.init, .block, .compress, .hash, .hmac] ∧ (∀ r, Instr.clear ≠ .round r) ∧
    Instr.clear ∉ [Instr.expand, .block, .hash, .hmac] ∧ Instr.clear ∉ [Instr.final, .hash, .hmac] :=
  ⟨_, rfl, by decide, by simp, by decide, by decide⟩

theorem witness_OnlyTheNamedCommandsWriteTheSequencingState : ∃ t, exec .expand State.reset = .next t ∧
    Instr.expand ∉ [Instr.pad, .clear] ∧ Instr.expand ∉ [Instr.clear, .pad, .init, .final, .hash, .hmac] ∧
    Instr.expand ∉ [Instr.pad, .init, .block, .clear, .hash, .hmac] :=
  ⟨_, rfl, by decide, by decide, by decide⟩

theorem witness_PhaseChangesOnlyByItsCommandsOrReset :
    (∃ t, step { paddedAbc .padded with schedule := [.reset] } = .next t ∧
      State.turn { paddedAbc .padded with schedule := [.reset] } = some .reset ∧ t.phase ≠ .padded) ∧
    ∃ t, step ((paddedAbc .padded).withCommand 0x00000003#32) = .next t ∧ t.phase ≠ .padded :=
  ⟨⟨_, rfl, rfl, by decide⟩, ⟨_, rfl, by decide⟩⟩

theorem witness_BlockIgnoresOldWAndVAndCompressIgnoresOldV : (paddedAbc .processing).phase = .processing ∧
    (paddedAbc .processing).blkIdx.toNat < (paddedAbc .processing).msgLen.toNat / 64 := by decide

/-- Two states that agree on the inputs of HASH and HMAC and differ elsewhere (H, and message byte 1). -/
theorem witness_HashAndHmacDependOnTheirInputsOnly :
    let s : State := { State.reset with msgLen := 1, keyLen := 1, msgMem := [(0, 1)], keyMem := [(0, 2)] }
    let r : State := { State.reset with msgLen := 1, keyLen := 1, msgMem := [(0, 1), (1, 7)], keyMem := [(0, 2)], h := iv }
    s.params = r.params ∧ s.inplace = false ∧ r.inplace = false ∧ s.msgLen = r.msgLen ∧
    s.msgLen.toNat ≤ s.params.msgMemBytes ∧ (∀ a, a < s.msgLen.toNat → s.msgByte a = r.msgByte a) ∧
    s.keyLen = r.keyLen ∧ s.keyLen.toNat ≤ s.params.keyMemBytes ∧
    (∀ a, a < s.keyLen.toNat → s.keyByte a = r.keyByte a) := by
  refine ⟨rfl, rfl, rfl, rfl, by decide, fun a ha => ?_, rfl, by decide, fun a ha => ?_⟩
  all_goals
    have h0 : a = 0 := Nat.lt_one_iff.1 ha
    subst h0
    rfl

theorem witness_StatusWriteClearsWhatItNames :
    HostOpNext (host (.wr 0x008 6)) (.wr 0x008 6) ∧ (6 = 6 ∨ 6 = 7 ∨ 12 ≤ 6) ∧ (7 = 6 ∨ 7 = 7 ∨ 12 ≤ 7) ∧
    (12 = 6 ∨ 12 = 7 ∨ 12 ≤ 12) := ⟨host_op_next _, by decide, by decide, by decide⟩

theorem witness_DoneFollowsAcceptanceAndCompletion :
    (HostOpNext (host (.wr 0x004 0)) (.wr 0x004 0) ∧ (host (.wr 0x004 0)).busy = false ∧
      ∃ t, step (host (.wr 0x004 0)) = .next t) ∧
    (∃ t, step (State.reset.withCommand 0) = .next t ∧ t.done ≠ (State.reset.withCommand 0).done ∧
      (State.reset.withCommand 0).turn = some .engine ∧ (State.reset.withCommand 0).busy = true) ∧
    HostOpNext (host (.wr 0x008 2)) (.wr 0x008 2) ∧ ∃ t, step (host (.wr 0x008 2)) = .next t :=
  ⟨⟨host_op_next _, rfl, _, rfl⟩, ⟨_, rfl, by decide, rfl, rfl⟩, host_op_next _, _, rfl⟩

theorem witness_FirstErrorIsKept : ∃ t,
    step { busyHost (.wr 0x040 5) with err := true, errCode := .sequence } = .next t ∧ t.err = true := ⟨_, rfl, rfl⟩

theorem witness_ErrorIsClearedOnlyByTheHostOrReset : ∃ t,
    step { host (.wr 0x008 4) with err := true, errCode := .range } = .next t ∧ t.err = false := ⟨_, rfl, rfl⟩

theorem witness_CtrlWriteSetsTheEnables :
    HostOpNext (host (.wr 0x00C 3)) (.wr 0x00C 3) ∧ HostOpNext (host (.rd 0x00C)) (.rd 0x00C) :=
  ⟨host_op_next _, host_op_next _⟩

theorem witness_IrqIsItsFourBits :
    State.irq { State.reset with done := true, ieDone := true } ≠ State.reset.irq := by decide

theorem witness_CmdWriteIssuesWhenIdle :
    (HostOpNext (host (.wr 0x004 9)) (.wr 0x004 9) ∧ (host (.wr 0x004 9)).busy = false) ∧
    (HostOpNext (busyHost (.wr 0x004 9)) (.wr 0x004 9) ∧ (busyHost (.wr 0x004 9)).busy = true) ∧
    HostOpNext (host (.rd 0x004)) (.rd 0x004) := ⟨⟨host_op_next _, rfl⟩, busyHost_op_next _, host_op_next _⟩

/-- The first and the last location of every range that BUSY refuses. -/
def busyWrites : List Word :=
  [0x004, 0x010, 0x018, 0x040, 0x050, 0x060, 0x070, 0x100, 0x23C, 0x1000, 0x10FC, 0x10000, 0x10FFC]

/-- The first and the last word of every unmapped range, and the read-only registers. -/
def ignoredWrites : List Word :=
  [0x024, 0x03C, 0x054, 0x05C, 0x074, 0x07C, 0x094, 0x0FC, 0x240, 0xFFC, 0x1100, 0xFFFC, 0x000, 0x01C, 0x020, 0x080, 0x090]

/-- The first and the last location of each kind of read while BUSY = 1. -/
def busyReads : List Word :=
  [0x010, 0x01C, 0x020, 0x040, 0x050, 0x060, 0x070, 0x080, 0x090, 0x100, 0x23C, 0x10000, 0x10FFC, 0x000, 0x004, 0x008] ++
  [0x00C, 0x014, 0x018, 0x1000, 0x10FC]

theorem offsets_aligned : ∀ off ∈ busyWrites ++ ignoredWrites ++ busyReads, off.toNat % 4 = 0 := by
  have h : (busyWrites ++ ignoredWrites ++ busyReads).all (fun off => off.toNat % 4 == 0) = true := by decide +kernel
  exact fun off ho => by simpa using List.all_eq_true.1 h off ho

/-- The refused locations, and MSG_LEN while INPLACE = 1. -/
theorem witness_RefusedWritesRecordTheirErrorOnly :
    (∀ off ∈ busyWrites, HostOpNext (busyHost (.wr off 1)) (.wr off 1) ∧
        (busyHost (.wr off 1)).busy = true ∧ (busyHost (.wr off 1)).params.WellFormed ∧ off.toNat % 4 = 0) ∧
    (0x10FC#32).toNat < 0x1000 + State.reset.params.keyMemBytes ∧
    (0x10FFC#32).toNat < 0x10000 + State.reset.params.msgMemBytes ∧
    HostOpNext { paddedAbc .padded with script := [.wr 0x010 10], schedule := [.host] } (.wr 0x010 10) ∧
    (paddedAbc .padded).busy = false ∧ (paddedAbc .padded).inplace = true :=
  ⟨fun off h => ⟨(busyHost_op_next _).1, rfl, busyHost_params _, offsets_aligned off (by simp [h])⟩, by decide, by decide,
    ⟨rfl, rfl⟩, rfl, rfl⟩

theorem witness_ReadOnlyAndUnmappedWritesAreIgnored :
    ∀ off ∈ ignoredWrites,
      HostOpNext (host (.wr off 1)) (.wr off 1) ∧ HostOpNext (host (.rd off)) (.rd off) ∧
      (host (.wr off 1)).params.WellFormed ∧ off.toNat % 4 = 0 :=
  fun off h => ⟨host_op_next _, host_op_next _, host_params _, offsets_aligned off (by simp [h])⟩

theorem witness_IdleWritesStoreTheirValue :
    State.reset.params.WellFormed ∧ (host (.wr 0x010 9)).busy = false ∧ (host (.wr 0x010 9)).inplace = false ∧
    HostOpNext (host (.wr 0x010 9)) (.wr 0x010 9) ∧ HostOpNext (host (.wr 0x070 9)) (.wr 0x070 9) ∧
    HostOpNext (host (.wr (BitVec.ofNat 32 (0x100 + 4 * 79)) 9)) (.wr (BitVec.ofNat 32 (0x100 + 4 * 79)) 9) :=
  ⟨by decide, rfl, rfl, host_op_next _, host_op_next _, host_op_next _⟩

/-- The last word of each window. -/
theorem witness_WindowsAreBigEndian :
    State.reset.params.WellFormed ∧ 4 * 1023 < State.reset.params.msgMemBytes ∧ 4 * 63 < State.reset.params.keyMemBytes ∧
    HostOpNext (host (.wr (BitVec.ofNat 32 (0x10000 + 4 * 1023)) 9)) (.wr (BitVec.ofNat 32 (0x10000 + 4 * 1023)) 9) ∧
    HostOpNext (host (.rd (BitVec.ofNat 32 (0x1000 + 4 * 63)))) (.rd (BitVec.ofNat 32 (0x1000 + 4 * 63))) :=
  ⟨by decide, by decide, by decide, host_op_next _, host_op_next _⟩

theorem witness_IdleReadsReturnTheRegister :
    HostOpNext (host (.rd 0x090)) (.rd 0x090) ∧ (host (.rd 0x090)).busy = false ∧ (host (.rd 0x090)).dg.w4 = 0 ∧
    HostOpNext (host (.rd (BitVec.ofNat 32 (0x100 + 4 * 79)))) (.rd (BitVec.ofNat 32 (0x100 + 4 * 79))) :=
  ⟨host_op_next _, rfl, rfl, host_op_next _⟩

theorem witness_BusyReadsAreDrawsOrTrue :
    ∀ off ∈ busyReads,
      HostOpNext (busyHost (.rd off)) (.rd off) ∧ (busyHost (.rd off)).busy = true ∧
      (busyHost (.rd off)).params.WellFormed ∧ off.toNat % 4 = 0 :=
  fun off h => ⟨(busyHost_op_next _).1, rfl, busyHost_params _, offsets_aligned off (by simp [h])⟩

theorem witness_HostReadsHaveNoSideEffects :
    HostOpNext (host (.rd 0x000)) (.rd 0x000) ∧ ∃ t, step (host (.rd 0x000)) = .next t := ⟨host_op_next _, _, rfl⟩

theorem witness_MisalignedOrSubwordAccessIsAHostFault :
    HostOpNext (host (.wr 0x001 0)) (.wr 0x001 0) ∧ HostOpNext (host (.rd 0x003)) (.rd 0x003) ∧
    (0x001#32).toNat % 4 ≠ 0 ∧ (0x003#32).toNat % 4 ≠ 0 ∧ HostOpNext (host (.subword 0)) (.subword 0) :=
  ⟨host_op_next _, host_op_next _, by decide, by decide, host_op_next _⟩

theorem witness_WaitPollsStatusUntilIdle :
    (HostOpNext (busyHost .wait) .wait ∧ (busyHost .wait).busy = true) ∧
    HostOpNext (host .wait) .wait ∧ (host .wait).busy = false := ⟨busyHost_op_next _, host_op_next _, rfl⟩

theorem witness_ResetPutsEveryRegisterAtItsResetValue :
    State.turn { busyHost .wait with schedule := [.reset] } = some .reset := by decide

/-- The state right after reset satisfies the invariants, and so does one with a command pending. -/
theorem reset_pending_inv : State.Inv (State.reset.withCommand 0x00000009#32) :=
  ⟨by decide, by decide, by decide, by decide, by decide, by decide, by decide, by decide, by decide, by decide⟩

/-- The invariants hold of a state in the middle of a message too. -/
theorem processing_inv : State.Inv (paddedAbc .processing) :=
  ⟨by decide, by decide, by decide, by decide, by decide, by decide, by decide, by decide, by decide +kernel, by decide⟩

theorem witness_EveryStepKeepsTheInvariants :
    State.Inv (State.reset.withCommand 0x00000009#32) ∧ ∃ t, step (State.reset.withCommand 0x00000009#32) = .next t :=
  ⟨reset_pending_inv, _, rfl⟩

theorem witness_OnlyTheHostsOwnAccessCanStopAStep : State.Inv (paddedAbc .processing) := processing_inv

theorem witness_PendingCommandIsPerformedInBoundedSteps :
    State.Inv (State.reset.withCommand 0x00000009#32) ∧ (State.reset.withCommand 0x00000009#32).busy = true :=
  ⟨reset_pending_inv, rfl⟩

theorem witness_HostCannotChangeAPendingCommandsInputs :
    (busyHost (.wr 0x010 5)).turn = some .host ∧ (busyHost (.wr 0x010 5)).busy = true ∧
    ∃ t, step (busyHost (.wr 0x010 5)) = .next t := ⟨rfl, rfl, _, rfl⟩

theorem witness_BehaviourDoesNotDependOnBase :
    (∃ t, step (host (.wr 0x004 0)) = .next t) ∧ step (host (.subword 0)) = .fault .hostProtocol ∧
    step (host (.rd 0x20000)) = .refused .outsideSpan := ⟨⟨_, rfl⟩, rfl, rfl⟩

end Sys2Proof.Tests
end

section
/-! The step commutes with a change of BASE (00_scope.md R8): whatever a step reads, the block's span and register map
included, is the same at every BASE, so each part of a step commutes with it. -/

namespace Sys2Proof.Machine

/-- The same state of the block at another host address. -/
def State.rebase (b : Nat) (s : State) : State := { s with params := { s.params with base := b } }

/-- The same end of a step, its next state, where there is one, rebased. -/
def rebaseResult (b : Nat) : Result → Result
  | .next t => .next (t.rebase b)
  | .fault f => .fault f
  | .refused r => .refused r

/-! The engine's turn: a command's checks read the same values, so they fail alike; its writes leave BASE alone. -/

theorem finish_rebase {b : Nat} {s : State} {r r' : Except ErrCode State} (h : r' = r.map (State.rebase b)) :
    finish (s.rebase b) r' = rebaseResult b (finish s r) := by
  subst h
  cases r <;> rfl

/-- One check of a command: under the same condition, only what follows it has to commute. -/
theorem check_rebase {b : Nat} {p : Prop} [Decidable p] {c : ErrCode} {r r' : Except ErrCode State}
    (h : r' = r.map (State.rebase b)) :
    (if p then .error c else r') = (if p then .error c else r : Except ErrCode State).map (State.rebase b) := by
  subst h
  split <;> rfl

theorem execPad_rebase (b : Nat) (s : State) : execPad (s.rebase b) = rebaseResult b (execPad s) :=
  finish_rebase <| check_rebase <| check_rebase <| check_rebase rfl

theorem execInit_rebase (b : Nat) (s : State) : execInit (s.rebase b) = rebaseResult b (execInit s) :=
  finish_rebase <| check_rebase rfl

theorem execBlock_rebase (b : Nat) (s : State) : execBlock (s.rebase b) = rebaseResult b (execBlock s) :=
  finish_rebase <| check_rebase <| check_rebase rfl

theorem execFinal_rebase (b : Nat) (s : State) : execFinal (s.rebase b) = rebaseResult b (execFinal s) :=
  finish_rebase <| check_rebase <| check_rebase rfl

theorem execExpand_rebase (b : Nat) (s : State) : execExpand (s.rebase b) = rebaseResult b (execExpand s) :=
  finish_rebase <| check_rebase rfl

theorem execRound_rebase (b ridx : Nat) (s : State) :
    execRound ridx (s.rebase b) = rebaseResult b (execRound ridx s) := by
  unfold execRound
  split <;> rfl

theorem execHash_rebase (b : Nat) (s : State) : execHash (s.rebase b) = rebaseResult b (execHash s) :=
  finish_rebase <| check_rebase <| check_rebase rfl

theorem execHmac_rebase (b : Nat) (s : State) : execHmac (s.rebase b) = rebaseResult b (execHmac s) :=
  finish_rebase <| check_rebase <| check_rebase rfl

theorem exec_rebase (b : Nat) (i : Instr) (s : State) : exec i (s.rebase b) = rebaseResult b (exec i s) := by
  cases i with
  | nop | clear | compress => rfl
  | pad => exact execPad_rebase b s
  | init => exact execInit_rebase b s
  | block => exact execBlock_rebase b s
  | final => exact execFinal_rebase b s
  | expand => exact execExpand_rebase b s
  | round ridx => exact execRound_rebase b ridx s
  | hash => exact execHash_rebase b s
  | hmac => exact execHmac_rebase b s

theorem performWord_rebase (b : Nat) (word : Word) (s : State) :
    performWord word (s.rebase b) = rebaseResult b (performWord word s) := by
  unfold performWord
  cases decode word with
  | ok i => exact exec_rebase b i s
  | error _ => rfl

theorem engineStep_rebase (b : Nat) (s : State) : engineStep (s.rebase b) = rebaseResult b (engineStep s) := by
  unfold engineStep
  rw [show (s.rebase b).busy = s.busy from rfl, show (s.rebase b).pend = s.pend from rfl]
  cases s.busy with
  | false => rfl
  | true =>
    cases s.pend with
    | none => rfl
    | some word => exact performWord_rebase b word s

/-! The host's turn: the span and the register map depend on the capacities only. -/

/-- Only what the access does at its location has to commute. -/
theorem access_rebase {b : Nat} {s : State} {act act' : Loc → State} (offset : Word)
    (h : ∀ l, act' l = (act l).rebase b) :
    access (s.rebase b) offset act' = rebaseResult b (access s offset act) := by
  obtain rfl : act' = fun l => (act l).rebase b := funext h
  unfold access
  rw [apply_ite (rebaseResult b), apply_ite (rebaseResult b)]
  rfl

theorem State.storeLoc_rebase (b : Nat) (l : Loc) (x : Word) (s : State) :
    (s.rebase b).storeLoc l x = (s.storeLoc l x).rebase b := by
  cases l with
  | msgLen =>
    simp only [State.storeLoc, apply_ite (State.rebase b)]
    rfl
  | _ => rfl

theorem State.writeLoc_rebase (b : Nat) (l : Loc) (x : Word) (s : State) :
    (s.rebase b).writeLoc l x = (s.writeLoc l x).rebase b := by
  unfold State.writeLoc
  rw [State.storeLoc_rebase, apply_ite (State.rebase b)]
  rfl

theorem State.hostRead_rebase (b : Nat) (l : Loc) (s : State) :
    (s.rebase b).hostRead l = (s.hostRead l).rebase b := by
  unfold State.hostRead
  rw [apply_ite (State.rebase b)]
  rfl

theorem State.poll_rebase (b : Nat) (s : State) : (s.rebase b).poll = s.poll.rebase b := by
  unfold State.poll
  rw [State.hostRead_rebase, apply_ite (State.rebase b)]
  rfl

theorem hostStep_rebase (b : Nat) (s : State) : hostStep (s.rebase b) = rebaseResult b (hostStep s) := by
  unfold hostStep
  rw [show (s.rebase b).script = s.script from rfl]
  cases s.script with
  | nil => rfl
  | cons op _ =>
    cases op with
    | wr offset x => exact access_rebase offset fun l => congrArg State.dropOp (State.writeLoc_rebase b l x s)
    | rd offset => exact access_rebase offset fun l => congrArg State.dropOp (State.hostRead_rebase b l s)
    | wait => exact congrArg Host.Outcome.next (State.poll_rebase b s)
    | subword _ => rfl

/-! The step -/

/-- A step at another BASE is the step, rebased, with the same fault or refusal (R8). -/
theorem step_rebase (b : Nat) (s : State) : step (s.rebase b) = rebaseResult b (step s) := by
  unfold step
  rw [show (s.rebase b).turn = s.turn from rfl]
  cases s.turn with
  | none => rfl
  | some agent =>
    cases agent with
    | host => exact hostStep_rebase b s.dropTurn
    | engine => exact engineStep_rebase b s.dropTurn
    | reset => rfl

/-- Settles O60: the step commutes with the change of BASE, whichever of its three ends it has. -/
theorem behaviourDoesNotDependOnBase : Obligations.BehaviourDoesNotDependOnBase := by
  intro s b
  have key {o : Result} (h : step s = o) : step (s.rebase b) = rebaseResult b o := h ▸ step_rebase b s
  exact ⟨fun _ h => key h, fun _ h => key h, fun _ h => key h⟩

end Sys2Proof.Machine
end

section
/-! What one step does to the block, in five kinds, and the invariants of 10_state.md R54 over each of them. -/

namespace Sys2Proof.Machine

/-- Only the host's side and the model's count of draws may differ: the block itself is as before. -/
def OnlyHostSideMoved (s t : State) : Prop :=
  t = { s with draws := t.draws, script := t.script, schedule := t.schedule, reads := t.reads }

/-- The kinds of steps that answer a next state (20_memory.md R95). -/
inductive StepKind (s : State) : State → Prop
  /-- An idle step, a turn with nothing to do, a read, or a poll of `wait`. -/
  | quiet {t : State} (same : OnlyHostSideMoved s t) : StepKind s t
  /-- A host write inside the span. -/
  | write {offset x : Word} (hop : HostOpNext s (.wr offset x)) (aligned : offset.toNat % 4 = 0) :
      StepKind s (s.dropTurn.writeLoc (locOf s.params offset.toNat) x).dropOp
  /-- The performance of a command. -/
  | perform {word : Word} {i : Instr} {t : State} (pending : WordPending s word) (hd : decode word = .ok i)
      (he : exec i s.dropTurn = .next t) : StepKind s t
  /-- The performance of a word that is no command. -/
  | illegal {word : Word} {r : Reject} (pending : WordPending s word) (hd : decode word = .error r) :
      StepKind s (s.dropTurn.fail .illegalCmd)
  /-- A reset. -/
  | reset (turn : s.turn = some .reset) : StepKind s s.dropTurn.assertReset

theorem onlyHostSideMoved_dropTurn (s : State) : OnlyHostSideMoved s s.dropTurn := rfl

/-- Reads leave the block alone (20_memory.md R90). -/
theorem onlyHostSideMoved_read (s : State) (l : Loc) : OnlyHostSideMoved s (s.dropTurn.hostRead l).dropOp := by
  obtain ⟨x, d, h⟩ := State.hostRead_eq s.dropTurn l
  rw [h]
  rfl

theorem onlyHostSideMoved_poll (s : State) : OnlyHostSideMoved s s.dropTurn.poll := by
  obtain ⟨x, d, h⟩ := State.hostRead_eq s.dropTurn .status
  unfold State.poll
  rw [h]
  dsimp only
  split <;> rfl

/-- Every step is of one of the five kinds. -/
theorem stepKind {s t : State} (h : step s = .next t) : StepKind s t := by
  rcases step_cases h with ⟨_, rfl⟩ | ⟨hT, h⟩ | ⟨hT, h⟩ | ⟨hT, rfl⟩
  · exact .quiet rfl
  · rcases hostStep_cases h with ⟨_, rfl⟩ | ⟨off, x, rest, hs, h4, _, rfl⟩ | ⟨_, _, _, _, _, rfl⟩ | ⟨_, _, rfl⟩
    · exact .quiet (onlyHostSideMoved_dropTurn s)
    · exact .write ⟨hT, congrArg List.head? hs⟩ h4
    · exact .quiet (onlyHostSideMoved_read s _)
    · exact .quiet (onlyHostSideMoved_poll s)
  · rcases engineStep_cases h with ⟨_, rfl⟩ | ⟨w, i, hb, hp, hd, he⟩ | ⟨w, _, hb, hp, hd, rfl⟩
    · exact .quiet (onlyHostSideMoved_dropTurn s)
    · exact .perform ⟨hT, hb, hp⟩ hd he
    · exact .illegal ⟨hT, hb, hp⟩ hd
  · exact .reset hT

/-! The invariants over the operations a step is made of -/

/-- The fields the invariants do not speak of may change freely. -/
theorem State.Inv.of_rest {s t : State} (h : s.Inv)
    (ht : t = { s with
      done := t.done, ieDone := t.ieDone, ieErr := t.ieErr, keyLen := t.keyLen, blkOff := t.blkOff, h := t.h, v := t.v
      w := t.w, dg := t.dg, resets := t.resets, draws := t.draws, script := t.script, schedule := t.schedule
      reads := t.reads }) : t.Inv := by
  rw [ht]
  exact { h with }

theorem OnlyHostSideMoved.inv {s t : State} (ht : OnlyHostSideMoved s t) (h : s.Inv) : t.Inv := by
  rw [ht]
  exact h.of_rest rfl

theorem State.Inv.recordError {s : State} (h : s.Inv) {c : ErrCode} (hc : c ≠ .none) : (s.recordError c).Inv := by
  have hcode : ¬ (s.recordError c).errCode = .none := by
    rw [State.recordError_errCode]
    split
    · next he => exact fun e => by simp [h.err_iff_code.2 e] at he
    · exact hc
  exact { h with err_iff_code := iff_of_false (by simp) hcode }

theorem State.Inv.complete {s : State} (h : s.Inv) : s.complete.Inv :=
  { h with
    idle_pend_empty := fun _ => rfl
    busy_pend_cmd := nofun }

theorem State.Inv.fail {s : State} (h : s.Inv) {c : ErrCode} (hc : c ≠ .none) : (s.fail c).Inv :=
  (h.recordError hc).complete

theorem State.Inv.writeStatus {s : State} (h : s.Inv) (x : Word) : (s.writeStatus x).Inv := by
  refine { h with err_iff_code := ?_ }
  rw [State.writeStatus_err, State.writeStatus_errCode]
  cases x.getLsbD 2 with
  | true => exact iff_of_true (Bool.and_false _) rfl
  | false => simpa using h.err_iff_code

theorem State.Inv.issue {s : State} (h : s.Inv) (x : Word) : (s.issue x).Inv :=
  { h with
    idle_pend_empty := nofun
    busy_pend_cmd := fun _ => rfl }

theorem State.Inv.memWrite {s : State} (h : s.Inv) {a : Nat} {bs : List Byte}
    (ha : a + bs.length ≤ s.params.msgMemBytes) : (s.memWrite a bs).Inv :=
  { h with msgMem_wf := ⟨Memory.wf_writeBytes h.msgMem_wf.1 a bs, Memory.within_writeBytes h.msgMem_wf.2 a bs ha⟩ }

theorem State.Inv.keyWrite {s : State} (h : s.Inv) {a : Nat} {bs : List Byte}
    (ha : a + bs.length ≤ s.params.keyMemBytes) : (s.keyWrite a bs).Inv :=
  { h with keyMem_wf := ⟨Memory.wf_writeBytes h.keyMem_wf.1 a bs, Memory.within_writeBytes h.keyMem_wf.2 a bs ha⟩ }

/-- With INPLACE = 0 no phase but EMPTY and FINALIZED is left (R54 (b)), and no clause speaks of MSG_LEN. -/
theorem State.Inv.not_sequencing {s : State} (h : s.Inv) (hi : s.inplace = false) :
    ¬ (s.phase = .padded ∨ s.phase = .processing) := fun hp => by
  simp [h.sequencing_inplace hp] at hi

theorem State.Inv.setMsgLen {s : State} (h : s.Inv) (hi : s.inplace = false) (x : Word) :
    State.Inv { s with msgLen := x } :=
  { h with
    inplace_lengths := fun hi' => by simp [hi] at hi'
    processing_index := fun hp => absurd (.inr hp) (h.not_sequencing hi) }

/-! Host writes -/

/-- A word written at an aligned window offset lies inside its memory, whose capacity is a multiple of 4 (00_scope.md R9,
R10). -/
theorem window_word_fits {cap base off a : Nat} (ho : off = base + a) (ha : a < cap) (h4 : off % 4 = 0)
    (hb : base % 4 = 0) (hc : cap % 4 = 0) : a + 4 ≤ cap := by omega

theorem State.Inv.storeLoc {s : State} (h : s.Inv) {off : Nat} (h4 : off % 4 = 0) (x : Word) :
    (s.storeLoc (locOf s.params off) x).Inv := by
  obtain ⟨hk, _, _, hm, _, _⟩ := h.params_wf
  cases hl : locOf s.params off with
  | cmd => exact h.issue x
  | status => exact h.writeStatus x
  | msgLen =>
    show State.Inv (if s.inplace then s.recordError .sequence else { s with msgLen := x })
    split
    · exact h.recordError (by decide)
    · next hi => exact h.setMsgLen (Bool.eq_false_iff.2 hi) x
  | key a =>
    obtain ⟨ho, ha⟩ := locOf_key hl
    exact h.keyWrite (window_word_fits ho ha h4 (by decide) hk)
  | msg a =>
    obtain ⟨ho, ha⟩ := locOf_msg hl
    exact h.memWrite (window_word_fits ho ha h4 (by decide) (by omega))
  | ctrl | keyLen | blkOff | h _ | v _ | w _ => exact h.of_rest rfl
  | id | blkIdx | origLen | dg _ | unmapped => exact h

theorem State.Inv.writeLoc {s : State} (h : s.Inv) {off : Nat} (h4 : off % 4 = 0) (x : Word) :
    (s.writeLoc (locOf s.params off) x).Inv := by
  unfold State.writeLoc
  split
  · exact h.recordError (by decide)
  · exact h.storeLoc h4 x

/-! Commands -/

theorem State.Inv.clear {s : State} (h : s.Inv) : State.Inv { s with
    msgLen := if s.inplace then s.origLen else s.msgLen
    inplace := false
    phase := .empty
    blkIdx := 0x00000000#32 } :=
  { h with
    empty_not_inplace := fun _ => rfl
    sequencing_inplace := nofun
    inplace_lengths := nofun
    processing_index := nofun }

theorem State.Inv.storePadding {s : State} (h : s.Inv) {len : Nat} (hc : paddedLength len ≤ s.params.msgMemBytes) :
    (s.storePadding len).Inv := by
  rw [paddedLength] at hc
  exact ((h.memWrite (by simp; omega)).memWrite (by simp; omega)).memWrite (by simp; omega)

theorem State.Inv.padInPlace {s : State} (h : s.Inv) (hc : paddedLength s.msgLen.toNat ≤ s.params.msgMemBytes) :
    s.padInPlace.Inv := by
  have hpad := h.storePadding hc
  refine { hpad with
    empty_not_inplace := nofun
    sequencing_inplace := fun _ => rfl
    inplace_lengths := fun _ => ?_
    processing_index := nofun }
  rw [State.padInPlace_msgLen_toNat h.params_wf hc, State.padInPlace_params, State.padInPlace_origLen]
  have := paddedLength_eq s.msgLen.toNat
  omega

/-- INIT's writes: PROCESSING is entered at block 0, with the message in place since PAD (R54 (b), (d)). -/
theorem State.Inv.enterProcessing {s : State} (h : s.Inv) (hp : s.phase = .padded) (q : Quint) :
    State.Inv { s with h := q, blkIdx := 0x00000000#32, phase := .processing } :=
  { h with
    empty_not_inplace := nofun
    sequencing_inplace := fun _ => h.sequencing_inplace (.inl hp)
    processing_index := fun _ => Nat.zero_le _ }

/-- BLOCK's writes: while a block is left, the next index is at most the block count (R54 (d)). -/
theorem State.Inv.advanceWith {s : State} (h : s.Inv) (hlt : s.blkIdx.toNat < s.msgLen.toNat / 64) (r : BlockResult) :
    (s.advanceWith r).Inv := by
  refine { h with processing_index := fun _ => ?_ }
  rw [State.advanceWith_blkIdx, State.advanceWith_msgLen, BitVec.toNat_add]
  exact (Nat.mod_le _ _).trans hlt

/-- FINALIZED: no clause speaks of it but by the lengths of a message in place. -/
theorem State.Inv.finalize {s : State} (h : s.Inv) (q v d : Quint) (w : Vector Word 80) (n : Word) :
    State.Inv { s with h := q, v := v, w := w, dg := d, blkIdx := n, phase := .finalized } :=
  { h with
    empty_not_inplace := nofun
    sequencing_inplace := nofun
    processing_index := nofun }

theorem State.Inv.exec {i : Instr} {s t : State} (h : s.Inv) (he : exec i s = .next t) : t.Inv := by
  have hfail {c : ErrCode} (hc : c ≠ .none) : (s.fail c).Inv := h.fail hc
  cases i with
  | nop => cases he; exact h.complete
  | clear => cases he; exact h.clear.complete
  | pad =>
    rcases execPad_cases he with ⟨_, rfl⟩ | ⟨_, _, rfl⟩ | ⟨_, _, _, rfl⟩ | ⟨_, _, hc, rfl⟩
    · exact hfail (by decide)
    · exact hfail (by decide)
    · exact hfail (by decide)
    · exact (h.padInPlace hc).complete
  | init =>
    rcases execInit_cases he with ⟨_, rfl⟩ | ⟨hp, rfl⟩
    · exact hfail (by decide)
    · exact (h.enterProcessing hp iv).complete
  | block =>
    rcases execBlock_cases he with ⟨_, rfl⟩ | ⟨_, hlt, rfl⟩
    · exact hfail (by decide)
    · exact (h.advanceWith hlt _).complete
  | final =>
    rcases execFinal_cases he with ⟨_, rfl⟩ | ⟨_, _, rfl⟩
    · exact hfail (by decide)
    · exact (h.finalize s.h s.v s.h s.w s.blkIdx).complete
  | expand =>
    rcases execExpand_cases he with ⟨_, rfl⟩ | ⟨_, rfl⟩
    · exact hfail (by decide)
    · exact State.Inv.complete (h.of_rest rfl)
  | round ridx =>
    rcases execRound_cases he with ⟨_, rfl⟩ | ⟨_, rfl⟩
    · exact hfail (by decide)
    · exact State.Inv.complete (h.of_rest rfl)
  | compress => cases he; exact State.Inv.complete (h.of_rest rfl)
  | hash =>
    rcases execHash_cases he with ⟨_, rfl⟩ | ⟨_, _, rfl⟩ | ⟨_, _, rfl⟩
    · exact hfail (by decide)
    · exact hfail (by decide)
    · exact (h.finalize _ _ _ _ _).complete
  | hmac =>
    rcases execHmac_cases he with ⟨_, rfl⟩ | ⟨_, _, rfl⟩ | ⟨_, _, _, rfl⟩
    · exact hfail (by decide)
    · exact hfail (by decide)
    · exact (h.finalize _ _ _ _ _).complete

/-! Reset -/

/-- The reset state of every block with legal capacities meets the invariants (70_reset_and_hazards.md R241). -/
theorem State.resetOf_inv {p : Params} (hp : p.WellFormed) (n : Nat) : (State.resetOf p n).Inv where
  params_wf := hp
  empty_not_inplace _ := rfl
  sequencing_inplace := nofun
  inplace_lengths := nofun
  processing_index := nofun
  err_iff_code := iff_of_true rfl rfl
  idle_pend_empty _ := rfl
  busy_pend_cmd := nofun
  msgMem_wf := ⟨rfl, rfl⟩
  keyMem_wf := ⟨rfl, rfl⟩

theorem State.Inv.assertReset {s : State} (h : s.Inv) : s.assertReset.Inv :=
  (State.resetOf_inv h.params_wf _).of_rest rfl

/-- Settles O55: the reset state of the block with the test vectors' capacities. -/
theorem resetSatisfiesTheInvariants : Obligations.ResetSatisfiesTheInvariants :=
  State.resetOf_inv (by decide) 0

/-- Settles O56: each of the five kinds of steps is made of operations that keep the invariants. -/
theorem everyStepKeepsTheInvariants : Obligations.EveryStepKeepsTheInvariants := by
  intro s t h hstep
  have hd : s.dropTurn.Inv := h.of_rest rfl
  cases stepKind hstep with
  | quiet same => exact same.inv h
  | write _ h4 => exact (hd.writeLoc h4 _).of_rest rfl
  | perform _ _ he => exact hd.exec he
  | illegal _ _ => exact hd.fail (by decide)
  | reset _ => exact hd.assertReset

end Sys2Proof.Machine
end

section
/-! What no command writes, and which commands write which registers (10_state.md sections 3, 5 and 6). -/

namespace Sys2Proof.Machine

/-- The fields that no command writes, and the message memory, which only PAD writes (R42, R43, 20_memory.md R84, R85). -/
theorem exec_frame {i : Instr} {s t : State} (h : exec i s = .next t) :
    SameSurroundings s t ∧ t.cmd = s.cmd ∧ t.keyLen = s.keyLen ∧ t.blkOff = s.blkOff ∧ t.ieDone = s.ieDone ∧
    t.ieErr = s.ieErr ∧ t.keyMem = s.keyMem ∧ (i ≠ .pad → t.msgMem = s.msgMem) := by
  rcases exec_cases h with ⟨c, rfl⟩ | e
  · simp [SameSurroundings]
  · cases i with
    | round r => obtain ⟨_, rfl⟩ := e; simp [SameSurroundings]
    | _ => rw [e]; simp [SameSurroundings]

/-- Settles O30: a memory that is the same list reads the same, with the count of resets unchanged. -/
theorem commandsLeaveInputsAndMemoriesAlone : Obligations.CommandsLeaveInputsAndMemoriesAlone := by
  intro i s t h
  obtain ⟨hsur, hcmd, hkl, hbo, hid, hie, hkey, hmsg⟩ := exec_frame h
  have hres : t.resets = s.resets := hsur.2.1
  exact ⟨hsur, hcmd, hkl, hbo, hid, hie, State.keyByte_congr hkey hres, fun hi => State.msgByte_congr (hmsg hi) hres⟩

/-- Settles O31: a failed command writes none of the four files, a completed one those of its own rule. -/
theorem onlyTheNamedCommandsWriteTheRegisterFiles : Obligations.OnlyTheNamedCommandsWriteTheRegisterFiles := by
  intro i s t h
  rcases exec_cases h with ⟨c, rfl⟩ | e
  · simp
  · cases i with
    | round r => obtain ⟨_, rfl⟩ := e; simp
    | _ => rw [e]; simp

/-- Settles O32: a failed command writes none of the five registers, a completed one those of its own rule. -/
theorem onlyTheNamedCommandsWriteTheSequencingState : Obligations.OnlyTheNamedCommandsWriteTheSequencingState := by
  intro i s t h
  rcases exec_cases h with ⟨c, rfl⟩ | e
  · simp
  · cases i with
    | round r => obtain ⟨_, rfl⟩ := e; simp
    | _ => rw [e]; simp

/-- Every performance ends with DONE = 1 (60_exceptions.md R214). -/
theorem exec_done {i : Instr} {s t : State} (h : exec i s = .next t) : t.done = true := by
  rcases exec_cases h with ⟨c, rfl⟩ | e
  · simp
  · cases i with
    | round r => obtain ⟨_, rfl⟩ := e; rfl
    | _ => rw [e]; rfl

/-- A performance records at most an error, and only while none is recorded (R38, R214). -/
theorem exec_error {i : Instr} {s t : State} (h : exec i s = .next t) :
    (s.err = true → t.err = true) ∧ (s.err = true → t.errCode = s.errCode) := by
  rcases exec_cases h with ⟨c, rfl⟩ | e
  · exact ⟨fun _ => by simp, fun he => by simp [he]⟩
  · cases i with
    | round r => obtain ⟨_, rfl⟩ := e; simp
    | _ => rw [e]; simp

end Sys2Proof.Machine
end

section
/-! STATUS, CTRL and IRQ as numbers and bits (10_state.md sections 3, 4 and 10). -/

namespace Sys2Proof.Machine

/-- One more bit below a word. -/
theorem toNat_append_ofBool {n : Nat} (x : BitVec n) (b : Bool) :
    (x ++ BitVec.ofBool b).toNat = 2 * x.toNat + b.toNat := by
  rw [BitVec.toNat_append, BitVec.toNat_ofBool, ← Nat.shiftLeft_add_eq_or_of_lt (Bool.toNat_lt b), Nat.shiftLeft_eq]
  omega

/-- The STATUS word as a sum (R33 to R39). -/
theorem State.statusWord_toNat (s : State) : s.statusWord.toNat =
    s.busy.toNat + 2 * s.done.toNat + 4 * s.err.toNat + 8 * s.inplace.toNat + 16 * (phaseCode s.phase).toNat +
    256 * (errCodeValue s.errCode).toNat := by
  have fields : (0#20 ++ errCodeValue s.errCode ++ 0#2 ++ phaseCode s.phase).toNat =
      (phaseCode s.phase).toNat + 16 * (errCodeValue s.errCode).toNat := by
    cases s.errCode <;> cases s.phase <;> rfl
  unfold State.statusWord
  simp only [toNat_append_ofBool, fields]
  omega

/-- The CTRL word as a sum (R40). -/
theorem State.ctrlWord_toNat (s : State) : s.ctrlWord.toNat = s.ieDone.toNat + 2 * s.ieErr.toNat := by
  unfold State.ctrlWord
  rw [toNat_append_ofBool, toNat_append_ofBool, BitVec.toNat_zero]
  omega

/-- Bits 6, 7 and 12 up of STATUS are reserved (R39). -/
theorem State.statusWord_reserved (s : State) {k : Nat} (hk : k = 6 ∨ k = 7 ∨ 12 ≤ k) :
    s.statusWord.getLsbD k = false := by
  unfold State.statusWord
  simp only [BitVec.getLsbD_append]
  rcases hk with rfl | rfl | hk
  · rfl
  · rfl
  · repeat rw [if_neg (by omega)]
    exact BitVec.getLsbD_zero

/-- Settles O36: the sum, with the two codes written out. -/
theorem statusWordHasItsLayout : Obligations.StatusWordHasItsLayout := by
  intro s
  rw [s.statusWord_toNat]
  cases s.phase <;> cases s.errCode <;> rfl

/-- Settles O42: IRQ reads its four bits and nothing else. -/
theorem irqIsItsFourBits : Obligations.IrqIsItsFourBits := by
  refine ⟨fun s => by simp [State.irq], fun s t hne => ?_⟩
  by_contra hsame
  simp only [not_or, ne_eq, not_not] at hsame
  obtain ⟨hdone, herr, hieDone, hieErr⟩ := hsame
  exact hne (by rw [State.irq, State.irq, hdone, herr, hieDone, hieErr])

end Sys2Proof.Machine
end

section
/-! Host accesses to the registers (10_state.md sections 1 to 6 and 11). -/

namespace Sys2Proof.Machine

/-- A write of a location that BUSY does not refuse now stores there. -/
theorem step_stores {s : State} {off x : Word} {l : Loc} (hop : HostOpNext s (.wr off x))
    (h4 : off.toNat % 4 = 0 ∧ off.toNat < 0x10000) (hl : locOf s.params off.toNat = l)
    (hfree : s.busy = false ∨ l.refusedWhileBusy = false) : step s = .next ((afterOp s).storeLoc l x) := by
  rw [step_write hop h4.1 (by omega) hl, State.writeLoc_idle (s := s.dropTurn) hfree]
  cases l with
  | msgLen =>
    simp only [State.storeLoc, apply_ite State.dropOp]
    rfl
  | _ => rfl

/-- A read of a location that is specified now returns its value. -/
theorem step_reads {s : State} {off : Word} {l : Loc} (hop : HostOpNext s (.rd off))
    (h4 : off.toNat % 4 = 0 ∧ off.toNat < 0x10000) (hl : locOf s.params off.toNat = l)
    (htrue : s.busy = false ∨ l.unspecifiedWhileBusy = false) :
    step s = .next { afterOp s with reads := s.readLoc l :: s.reads } := by
  rw [step_read hop h4.1 (by omega) hl, State.hostRead_true (s := s.dropTurn) htrue]
  cases l <;> rfl

/-- Settles O37: STATUS is written at any time, and only DONE and ERR with ERR_CODE follow. -/
theorem statusWriteClearsWhatItNames : Obligations.StatusWriteClearsWhatItNames := by
  refine ⟨fun s x hop => ?_, fun s k hk => s.statusWord_reserved hk⟩
  rw [step_stores (l := .status) hop (by decide) rfl (.inr rfl), State.storeLoc, State.writeStatus]
  cases x.getLsbD 1 <;> cases x.getLsbD 2 <;> simp [afterOp]

/-- Settles O41: CTRL is written and read at any time. -/
theorem ctrlWriteSetsTheEnables : Obligations.CtrlWriteSetsTheEnables :=
  ⟨fun _ _ hop => step_stores (l := .ctrl) hop (by decide) rfl (.inr rfl),
    fun s hop => ⟨s.ctrlWord, step_reads (l := .ctrl) hop (by decide) rfl (.inr rfl), s.ctrlWord_toNat⟩⟩

/-- Settles O43: CMD is issued when idle, refused when busy, and read at any time. -/
theorem cmdWriteIssuesWhenIdle : Obligations.CmdWriteIssuesWhenIdle := by
  refine ⟨fun s x hop => ⟨fun hb => ?_, fun hb => ?_⟩, fun s hop => ?_⟩
  · exact step_stores (l := .cmd) hop (by decide) rfl (.inl hb)
  · rw [step_write (l := .cmd) hop (by decide) (by show 4 < _; omega) rfl, State.writeLoc_busy (s := s.dropTurn) hb rfl]
    rfl
  · exact step_reads (l := .cmd) hop (by decide) rfl (.inr rfl)

/-- No single register stands at word 9 or above (R30). -/
theorem scalarLoc_of_ge {n : Nat} (h : 9 ≤ n) : scalarLoc n = .unmapped := by
  obtain ⟨k, rfl⟩ := Nat.exists_eq_add_of_le' h
  rfl

/-- The unmapped offsets below the message window, written out (R30). -/
theorem locOf_unmapped {p : Params} {n : Nat} (wf : p.WellFormed)
    (h : (0x024 ≤ n ∧ n < 0x040) ∨ (0x054 ≤ n ∧ n < 0x060) ∨ (0x074 ≤ n ∧ n < 0x080) ∨ (0x094 ≤ n ∧ n < 0x100) ∨
      (0x240 ≤ n ∧ n < 0x1000) ∨ (0x1000 + p.keyMemBytes ≤ n ∧ n < 0x10000)) : locOf p n = .unmapped := by
  obtain ⟨_, _, _, _, _, _⟩ := wf
  rcases locOf_cases p n with ⟨_, hl⟩ | ⟨_, _, _⟩ | ⟨_, _, _⟩ | ⟨_, _, _⟩ | ⟨_, _, _⟩ | ⟨_, _, _⟩ | ⟨_, _, _⟩ |
    ⟨_, _, _, _, _, _, _, hl⟩
  · rw [hl, scalarLoc_of_ge (by omega)]
  iterate 6 omega
  · exact hl

/-- The digest registers at their offsets (R30). -/
theorem locOf_dg {p : Params} {n : Nat} (h : 0x080 ≤ n ∧ n < 0x094) : ∃ k, locOf p n = .dg k := by
  unfold locOf
  rw [if_neg (by omega), if_neg (by omega), if_neg (by omega), if_pos h]
  exact ⟨_, rfl⟩

/-- Settles O45: such a write is not refused and stores nothing; unmapped offsets read 0. -/
theorem readOnlyAndUnmappedWritesAreIgnored : Obligations.ReadOnlyAndUnmappedWritesAreIgnored := by
  intro s off wf h4
  refine ⟨fun x hop hoff => ?_, fun hop hoff => ?_⟩
  · rcases hoff with hoff | h0 | h0 | h0 | hdg
    · exact step_stores hop ⟨h4, by obtain ⟨_, _, _, _⟩ := wf; omega⟩ (locOf_unmapped wf hoff) (.inr rfl)
    · exact step_stores (l := .id) hop ⟨h4, by omega⟩ (by rw [h0]; rfl) (.inr rfl)
    · exact step_stores (l := .blkIdx) hop ⟨h4, by omega⟩ (by rw [h0]; rfl) (.inr rfl)
    · exact step_stores (l := .origLen) hop ⟨h4, by omega⟩ (by rw [h0]; rfl) (.inr rfl)
    · obtain ⟨k, hl⟩ := locOf_dg hdg
      exact step_stores hop ⟨h4, by omega⟩ hl (.inr rfl)
  · exact step_reads hop ⟨h4, by obtain ⟨_, _, _, _⟩ := wf; omega⟩ (locOf_unmapped wf hoff) (.inr rfl)

/-- The offset of a schedule register as a word. -/
theorem scheduleOffset_toNat {j : Nat} (hj : j < 80) : (BitVec.ofNat 32 (0x100 + 4 * j)).toNat = 0x100 + 4 * j := by
  rw [BitVec.toNat_ofNat]
  omega

/-- Settles O46: each register at its offset of the map, and the schedule registers at 0x100 + 4j. -/
theorem idleWritesStoreTheirValue : Obligations.IdleWritesStoreTheirValue := by
  intro s x _ hb
  have store (l : Loc) {off : Word} (hop : HostOpNext s (.wr off x))
      (h4 : off.toNat % 4 = 0 ∧ off.toNat < 0x10000 := by decide) (hl : locOf s.params off.toNat = l := by rfl) :
      step s = .next ((afterOp s).storeLoc l x) := step_stores hop h4 hl (.inl hb)
  refine ⟨fun hop hi => ?_, fun hop => store .keyLen hop, fun hop => store .blkOff hop, fun hop => store (.h 0) hop,
    fun hop => store (.h 1) hop, fun hop => store (.h 2) hop, fun hop => store (.h 3) hop, fun hop => store (.h 4) hop,
    fun hop => store (.v 0) hop, fun hop => store (.v 1) hop, fun hop => store (.v 2) hop, fun hop => store (.v 3) hop,
    fun hop => store (.v 4) hop, fun j hj hop => ?_⟩
  · rw [store .msgLen hop]
    simp [State.storeLoc, afterOp, hi]
  · have hoff := scheduleOffset_toNat hj
    exact store (.w ⟨j, hj⟩) hop (by rw [hoff]; omega) (by rw [hoff]; exact locOf_w hj _)

/-- Settles O48: each register at its offset of the map, and the schedule registers at 0x100 + 4j. -/
theorem idleReadsReturnTheRegister : Obligations.IdleReadsReturnTheRegister := by
  intro s off y _ hb hop hy
  have read (l : Loc) (h4 : off.toNat % 4 = 0 ∧ off.toNat < 0x10000 := by decide)
      (hl : locOf s.params off.toNat = l := by rfl) (hy : s.readLoc l = y := by rfl) :
      step s = .next { afterOp s with reads := y :: s.reads } := hy ▸ step_reads hop h4 hl (.inl hb)
  rcases hy with hy | ⟨j, hj, rfl, rfl⟩
  · fin_cases hy
    exacts [read .id, read .cmd, read .status, read .ctrl, read .msgLen, read .keyLen, read .blkOff, read .blkIdx,
      read .origLen, read (.h 0), read (.h 1), read (.h 2), read (.h 3), read (.h 4), read (.v 0), read (.v 1),
      read (.v 2), read (.v 3), read (.v 4), read (.dg 0), read (.dg 1), read (.dg 2), read (.dg 3), read (.dg 4)]
  · have hoff := scheduleOffset_toNat hj
    exact step_reads (l := .w ⟨j, hj⟩) hop (by rw [hoff]; omega) (by rw [hoff]; exact locOf_w hj _) (.inl hb)

end Sys2Proof.Machine
end

section
/-! What changes PHASE, DONE and ERR over a whole step (10_state.md section 3, 60_exceptions.md R216, R218). -/

namespace Sys2Proof.Machine

/-- Only operands, enables and memories may differ: the flags, PHASE and the pending command are as before. -/
def OnlyOperandsWritten (s t : State) : Prop :=
  t = { s with
    ieDone := t.ieDone, ieErr := t.ieErr, msgLen := t.msgLen, keyLen := t.keyLen, blkOff := t.blkOff, h := t.h, v := t.v
    w := t.w, keyMem := t.keyMem, msgMem := t.msgMem }

/-- What a host write can do: record an error, issue a command, write STATUS, or store an operand. -/
theorem State.writeLoc_cases (s : State) (l : Loc) (x : Word) :
    (∃ c, s.writeLoc l x = s.recordError c) ∨ (l = .cmd ∧ s.busy = false ∧ s.writeLoc l x = s.issue x) ∨
    (l = .status ∧ s.writeLoc l x = s.writeStatus x) ∨ OnlyOperandsWritten s (s.writeLoc l x) := by
  by_cases hb : s.busy = true ∧ l.refusedWhileBusy = true
  · exact .inl ⟨_, State.writeLoc_busy hb.1 hb.2 x⟩
  have hfree : s.busy = false ∨ l.refusedWhileBusy = false := by
    rwa [not_and_or, Bool.not_eq_true, Bool.not_eq_true] at hb
  rw [State.writeLoc_idle hfree]
  cases l with
  | cmd => exact .inr (.inl ⟨rfl, hfree.resolve_right (by decide), rfl⟩)
  | status => exact .inr (.inr (.inl ⟨rfl, rfl⟩))
  | msgLen =>
    cases hi : s.inplace with
    | true => exact .inl ⟨.sequence, if_pos hi⟩
    | false =>
      have e : s.storeLoc .msgLen x = { s with msgLen := x } := if_neg (by simp [hi])
      rw [e]
      exact .inr (.inr (.inr rfl))
  | _ => exact .inr (.inr (.inr rfl))

/-- A single register stands at its own offset (R30). -/
theorem scalarLoc_offset {n : Nat} (h : scalarLoc n ≠ .unmapped) : (scalarLoc n).offset = 4 * n := by
  match n with
  | 0 | 1 | 2 | 3 | 4 | 5 | 6 | 7 | 8 => rfl
  | _ + 9 => exact absurd rfl h

/-- CMD and STATUS are single registers, so each has one offset (R30). -/
theorem offset_of_locOf {p : Params} {off : Word} {l : Loc} (h4 : off.toNat % 4 = 0) (h : locOf p off.toNat = l)
    (hl : l = .cmd ∨ l = .status) : off = BitVec.ofNat 32 l.offset := by
  rcases locOf_cases p off.toNat with ⟨_, e⟩ | ⟨_, _, _, e⟩ | ⟨_, _, _, e⟩ | ⟨_, _, _, e⟩ | ⟨_, _, _, e⟩ | ⟨_, _, e⟩ |
    ⟨_, _, e⟩ | ⟨_, _, _, _, _, _, _, e⟩ <;> rw [e] at h
  · have hoff := scalarLoc_offset (n := off.toNat / 4) (by rw [h]; rcases hl with rfl | rfl <;> decide)
    rw [← h, hoff, Nat.mul_div_cancel' (Nat.dvd_of_mod_eq_zero h4), BitVec.ofNat_toNat, BitVec.setWidth_eq]
  all_goals
    rw [← h] at hl
    simp at hl

/-- No host write changes PHASE (R37). -/
theorem State.writeLoc_phase (s : State) (l : Loc) (x : Word) : (s.writeLoc l x).phase = s.phase := by
  rcases s.writeLoc_cases l x with ⟨c, e⟩ | ⟨_, _, e⟩ | ⟨_, e⟩ | e <;> rw [e] <;> rfl

/-- A host write changes DONE only by an issue or by STATUS bit 1 (R34). -/
theorem State.writeLoc_done {s : State} {l : Loc} {x : Word} (h : (s.writeLoc l x).done ≠ s.done) :
    (l = .cmd ∧ s.busy = false) ∨ (l = .status ∧ x.getLsbD 1 = true) := by
  rcases s.writeLoc_cases l x with ⟨c, e⟩ | ⟨hl, hb, e⟩ | ⟨hl, e⟩ | e
  · exact absurd (congrArg State.done e) h
  · exact .inl ⟨hl, hb⟩
  · refine .inr ⟨hl, ?_⟩
    by_contra hx
    rw [e, State.writeStatus_done, Bool.eq_false_iff.2 hx, Bool.not_false, Bool.and_true] at h
    exact h rfl
  · exact absurd (congrArg State.done e) h

/-- A host write clears a recorded error only by STATUS bit 2, and leaves the code of one it does not clear (R35, R38). -/
theorem State.writeLoc_error {s : State} (l : Loc) (x : Word) (he : s.err = true) :
    (l = .status ∧ x.getLsbD 2 = true ∧ (s.writeLoc l x).err = false) ∨
    ((s.writeLoc l x).err = true ∧ (s.writeLoc l x).errCode = s.errCode) := by
  rcases s.writeLoc_cases l x with ⟨c, e⟩ | ⟨_, _, e⟩ | ⟨hl, e⟩ | e
  · rw [e]
    exact .inr ⟨rfl, by simp [he]⟩
  · rw [e]
    exact .inr ⟨he, rfl⟩
  · rw [e, State.writeStatus_err, State.writeStatus_errCode]
    cases hx : x.getLsbD 2 with
    | true => exact .inl ⟨hl, rfl, Bool.and_false _⟩
    | false => exact .inr ⟨by simp [he], rfl⟩
  · exact .inr ⟨(congrArg State.err e).trans he, (congrArg State.errCode e :)⟩

/-- Over a step a recorded error is kept with its code, unless the step is a reset or clears it by STATUS bit 2. -/
theorem step_error {s t : State} (h : step s = .next t) (he : s.err = true) :
    (t.err = true ∧ t.errCode = s.errCode) ∨
    (t.err = false ∧ (s.turn = some .reset ∨ ∃ x, HostOpNext s (.wr 0x008 x) ∧ x.getLsbD 2 = true)) := by
  cases stepKind h with
  | quiet same => exact .inl ⟨(congrArg State.err same).trans he, (congrArg State.errCode same :)⟩
  | write hop h4 =>
    rcases State.writeLoc_error (s := s.dropTurn) _ _ he with ⟨hl, hx, hc⟩ | hkept
    · rw [offset_of_locOf h4 hl (.inr rfl)] at hop
      exact .inr ⟨hc, .inr ⟨_, hop, hx⟩⟩
    · exact .inl hkept
  | perform _ _ hexec => exact .inl ⟨(exec_error hexec).1 he, (exec_error hexec).2 he⟩
  | illegal _ _ => exact .inl ⟨by simp, by simp [he]⟩
  | reset hT => exact .inr ⟨rfl, .inl hT⟩

/-- Settles O33: PHASE is read off the STATUS sum; of the kinds of steps only a performance and a reset write it. -/
theorem phaseChangesOnlyByItsCommandsOrReset : Obligations.PhaseChangesOnlyByItsCommandsOrReset := by
  refine ⟨fun s => ?_, fun s t h => ⟨fun hT => ?_, fun hne => ?_⟩⟩
  · have hcode : s.statusWord.toNat / 2 ^ 4 % 4 = (phaseCode s.phase).toNat := by
      have := s.statusWord_toNat
      have := Bool.toNat_lt s.busy
      have := Bool.toNat_lt s.done
      have := Bool.toNat_lt s.err
      have := Bool.toNat_lt s.inplace
      have := (phaseCode s.phase).isLt
      omega
    rw [hcode]
    cases s.phase <;> rfl
  · have e : step s = .next s.dropTurn.assertReset := by rw [step, hT]
    cases e.symm.trans h
    rfl
  · cases stepKind h with
    | quiet same => exact absurd (congrArg State.phase same) hne
    | write _ _ => exact absurd (State.writeLoc_phase s.dropTurn _ _) hne
    | perform pending hd he =>
      refine .inr ⟨_, _, pending, hd, ?_⟩
      by_contra hi
      obtain ⟨_, _, hphase, _⟩ := onlyTheNamedCommandsWriteTheSequencingState _ _ _ he
      exact hne (hphase hi)
    | illegal _ _ => exact absurd (by simp) hne
    | reset hT => exact .inl hT

/-- Settles O38: acceptance, performance and the STATUS write set DONE, and no other step but reset changes it. -/
theorem doneFollowsAcceptanceAndCompletion : Obligations.DoneFollowsAcceptanceAndCompletion := by
  intro s t h
  refine ⟨fun x hop hb => ?_, fun hT hb => ?_, fun x hop => ?_, fun hne => ?_⟩
  · cases (step_stores (l := .cmd) hop (by decide) rfl (.inl hb)).symm.trans h
    rfl
  · rw [step_engine hT] at h
    rcases engineStep_cases h with ⟨hb', _⟩ | ⟨_, _, _, _, _, he⟩ | ⟨_, _, _, _, _, rfl⟩
    · exact absurd (hb.symm.trans hb') (by decide)
    · exact exec_done he
    · rfl
  · cases (step_stores (l := .status) hop (by decide) rfl (.inr rfl)).symm.trans h
    show (s.done && !x.getLsbD 1) = _
    cases x.getLsbD 1 <;> simp
  · cases stepKind h with
    | quiet same => exact absurd (congrArg State.done same) hne
    | write hop h4 =>
      rcases State.writeLoc_done (s := s.dropTurn) hne with ⟨hl, hb⟩ | ⟨hl, hx⟩
      · rw [offset_of_locOf h4 hl (.inl rfl)] at hop
        exact .inr (.inr ⟨_, .inl ⟨hop, hb⟩⟩)
      · rw [offset_of_locOf h4 hl (.inr rfl)] at hop
        exact .inr (.inr ⟨_, .inr ⟨hop, hx⟩⟩)
    | perform pending _ _ => exact .inr (.inl ⟨pending.1, pending.2.1⟩)
    | illegal pending _ => exact .inr (.inl ⟨pending.1, pending.2.1⟩)
    | reset hT => exact .inl hT

/-- Settles O39: a kept error keeps its code, and the equivalence is one of the invariants of O56. -/
theorem firstErrorIsKept : Obligations.FirstErrorIsKept := by
  intro s t h
  refine ⟨fun he he' => ?_, fun hinv => (everyStepKeepsTheInvariants s t hinv h).err_iff_code⟩
  rcases step_error h he with ⟨_, hcode⟩ | ⟨hc, _⟩
  · exact hcode
  · exact absurd (he'.symm.trans hc) (by decide)

/-- Settles O40: the two ways of a step to clear ERR. -/
theorem errorIsClearedOnlyByTheHostOrReset : Obligations.ErrorIsClearedOnlyByTheHostOrReset := by
  intro s t h he hc
  rcases step_error h he with ⟨he', _⟩ | ⟨_, hcause⟩
  · exact absurd (he'.symm.trans hc) (by decide)
  · exact hcause

end Sys2Proof.Machine
end

section
/-! The engine's turn and a turn nobody takes (20_memory.md R95, 30_encoding.md R114). -/

namespace Sys2Proof.Machine

/-- Settles O5: the decoded command is all a performance runs. -/
theorem engineStepRunsTheDecodedCommand : Obligations.EngineStepRunsTheDecodedCommand := by
  intro s w i pending hd
  rw [step_performs pending, performWord, hd]

/-- A whole word is its own table word. -/
@[simp] theorem tableWord_toNat (w : Word) : tableWord 32 w.toNat = w := by
  rw [tableWord, Nat.mod_eq_of_lt w.isLt, BitVec.ofNat_toNat, BitVec.setWidth_eq]

/-- Settles O6: the placed word is pending with the engine to move, so O5 applies. -/
theorem placedWordRunsAtTheNextStep : Obligations.PlacedWordRunsAtTheNextStep := by
  intro s w i hd
  rw [State.withFetchWord, tableWord_toNat]
  exact engineStepRunsTheDecodedCommand _ w i ⟨State.withCommand_turn w s, rfl, rfl⟩ hd

/-- A pending command always leaves somebody a turn (R255, log 4). -/
theorem State.busy_of_turn_none {s : State} (h : s.turn = none) : s.busy = false := by
  unfold State.turn at h
  split at h
  · cases h
  · cases hb : s.busy with
    | false => rfl
    | true => simp [hb] at h

/-- Settles O7: an idle engine only drops its turn, and without a turn nothing is pending. -/
theorem idleBlockKeepsItsState : Obligations.IdleBlockKeepsItsState := by
  refine ⟨fun s hT hb => ?_, fun s hT => ⟨by rw [step, hT], State.busy_of_turn_none hT⟩⟩
  rw [step_engine hT, engineStep, State.dropTurn_busy, hb]
  rfl

end Sys2Proof.Machine
end

section
/-! HASH and HMAC as functions of the message and key bytes (44_digest.md R186, 45_hmac.md R200). -/

namespace Sys2Proof.Machine

/-- HASH past its checks. -/
theorem execHash_completes {s : State} (hi : s.inplace = false) (hm : s.msgLen.toNat ≤ s.params.msgMemBytes) :
    exec .hash s =
      .next (s.finalizeWith (digestPass (s.memRead 0 s.msgLen.toNat)) (blockCount s.msgLen.toNat)).complete := by
  rw [exec_hash, execHash, if_neg (Bool.eq_false_iff.1 hi), if_neg (not_lt.2 hm), finish_ok]

/-- HMAC past its checks; its outer pass always has two blocks (R200). -/
theorem execHmac_completes {s : State} (hi : s.inplace = false) (hm : s.msgLen.toNat ≤ s.params.msgMemBytes)
    (hk : s.keyLen.toNat ≤ s.params.keyMemBytes) : exec .hmac s = .next (s.finalizeWith s.hmacPass 2).complete := by
  rw [exec_hmac, execHmac, if_neg (Bool.eq_false_iff.1 hi), if_neg (not_or.2 ⟨not_lt.2 hm, not_lt.2 hk⟩), finish_ok,
    outerInput_length]
  rfl

/-- Two completions with the same pass and block count leave the same result registers. -/
theorem finalizeWith_results_agree {i : Instr} {s r : State} {b : BlockResult} {n : Nat}
    (hs : exec i s = .next (s.finalizeWith b n).complete) (hr : exec i r = .next (r.finalizeWith b n).complete) :
    ∃ t u : State, exec i s = .next t ∧ exec i r = .next u ∧
      t.dg = u.dg ∧ t.h = u.h ∧ t.v = u.v ∧ t.w = u.w ∧ t.blkIdx = u.blkIdx :=
  ⟨_, _, hs, hr, rfl, rfl, rfl, rfl, rfl⟩

/-- Settles O35: both passes read the memories below the lengths only. -/
theorem hashAndHmacDependOnTheirInputsOnly : Obligations.HashAndHmacDependOnTheirInputsOnly := by
  intro s r hp his hir hlen hm hmsg
  have hmr : r.msgLen.toNat ≤ r.params.msgMemBytes := hlen ▸ hp ▸ hm
  have msgEq : r.memRead 0 r.msgLen.toNat = s.memRead 0 s.msgLen.toNat := by
    rw [← hlen]
    exact State.memRead_congr fun a ha => by rw [Nat.zero_add, hmsg a ha]
  refine ⟨?_, fun hklen hk hkey => ?_⟩
  · have hr := execHash_completes hir hmr
    rw [msgEq, ← hlen] at hr
    exact finalizeWith_results_agree (execHash_completes his hm) hr
  · have hkr : r.keyLen.toNat ≤ r.params.keyMemBytes := hklen ▸ hp ▸ hk
    have keyEq : r.keyRead 0 r.keyLen.toNat = s.keyRead 0 s.keyLen.toNat := by
      rw [← hklen]
      exact State.keyRead_congr fun a ha => by rw [Nat.zero_add, hkey a ha]
    have hr := execHmac_completes hir hmr hkr
    rw [show r.hmacPass = s.hmacPass by rw [State.hmacPass, msgEq, keyEq, State.hmacPass]] at hr
    exact finalizeWith_results_agree (execHmac_completes his hm hk) hr

end Sys2Proof.Machine
end

section
/-! Host accesses to the memory windows, accesses while BUSY = 1, and accesses the block gives no meaning
(20_memory.md R80, R86, R90, R91, R96, R97). -/

namespace Sys2Proof.Machine

/-! The host's next operation -/

theorem HostOpNext.script_eq {s : State} {op : HostOp} (h : HostOpNext s op) : ∃ rest, s.dropTurn.script = op :: rest :=
  List.head?_eq_some_iff.1 h.2

theorem HostOpNext.step_wr {s : State} {off x : Word} (h : HostOpNext s (.wr off x)) :
    step s = access s.dropTurn off (fun l => (s.dropTurn.writeLoc l x).dropOp) := by
  obtain ⟨_, hs⟩ := h.script_eq
  rw [step_host h.1, hostStep, hs]

theorem HostOpNext.step_rd {s : State} {off : Word} (h : HostOpNext s (.rd off)) :
    step s = access s.dropTurn off (fun l => (s.dropTurn.hostRead l).dropOp) := by
  obtain ⟨_, hs⟩ := h.script_eq
  rw [step_host h.1, hostStep, hs]

theorem HostOpNext.step_subword {s : State} {off : Word} (h : HostOpNext s (.subword off)) :
    step s = .fault .hostProtocol := by
  obtain ⟨_, hs⟩ := h.script_eq
  rw [step_host h.1, hostStep, hs]

/-- Settles O51: alignment is checked first, whatever the access does at its location. -/
theorem misalignedOrSubwordAccessIsAHostFault : Obligations.MisalignedOrSubwordAccessIsAHostFault := by
  refine fun s off x => ⟨fun hop h4 => ?_, HostOpNext.step_subword⟩
  rcases hop with hop | hop
  · rw [hop.step_wr, access, if_pos h4]
  · rw [hop.step_rd, access, if_pos h4]

/-- Settles O50: of the three ends of an access only the one at a location answers a state, that of a read. -/
theorem hostReadsHaveNoSideEffects : Obligations.HostReadsHaveNoSideEffects := by
  intro s t off hop h
  rw [hop.step_rd] at h
  rcases access_cases s.dropTurn off fun l => (s.dropTurn.hostRead l).dropOp with ⟨_, e⟩ | ⟨_, _, e⟩ | ⟨_, _, e⟩ <;>
    cases e.symm.trans h
  obtain ⟨y, d, hread⟩ := State.hostRead_eq s.dropTurn (locOf s.params off.toNat)
  exact ⟨y, d, congrArg State.dropOp hread⟩

/-! Accesses while BUSY = 1 -/

/-- The locations R91 refuses, by their offsets (10_state.md R30). -/
theorem locOf_refusedWhileBusy {p : Params} {n : Nat} (h4 : n % 4 = 0)
    (h : n = 0x004 ∨ (0x010 ≤ n ∧ n ≤ 0x018) ∨ (0x040 ≤ n ∧ n < 0x054) ∨ (0x060 ≤ n ∧ n < 0x074) ∨
      (0x100 ≤ n ∧ n < 0x240) ∨ (0x1000 ≤ n ∧ n < 0x1000 + p.keyMemBytes) ∨
      (0x10000 ≤ n ∧ n < 0x10000 + p.msgMemBytes)) : (locOf p n).refusedWhileBusy = true := by
  rcases locOf_cases p n with ⟨_, hl⟩ | ⟨_, _, _, hl⟩ | ⟨_, _, _, hl⟩ | ⟨_, _, _⟩ | ⟨_, _, _, hl⟩ | ⟨_, _, hl⟩ |
    ⟨_, _, hl⟩ | ⟨_, _, _, _, _, _, _, _⟩
  · obtain rfl | rfl | rfl | rfl : n = 0x004 ∨ n = 0x010 ∨ n = 0x014 ∨ n = 0x018 := by omega
    all_goals rfl
  · rw [hl]; rfl
  · rw [hl]; rfl
  · omega
  · rw [hl]; rfl
  · rw [hl]; rfl
  · rw [hl]; rfl
  · omega

/-- The locations R97 leaves unspecified, by their offsets (R30). -/
theorem locOf_unspecifiedWhileBusy {p : Params} {n : Nat} (wf : p.WellFormed)
    (h : n = 0x010 ∨ n = 0x01C ∨ n = 0x020 ∨ (0x040 ≤ n ∧ n < 0x054) ∨ (0x060 ≤ n ∧ n < 0x074) ∨
      (0x080 ≤ n ∧ n < 0x094) ∨ (0x100 ≤ n ∧ n < 0x240) ∨ (0x10000 ≤ n ∧ n < 0x10000 + p.msgMemBytes)) :
    (locOf p n).unspecifiedWhileBusy = true := by
  obtain ⟨_, _, hk, _, _, _⟩ := wf
  rcases locOf_cases p n with ⟨_, hl⟩ | ⟨_, _, _, hl⟩ | ⟨_, _, _, hl⟩ | ⟨_, _, _, hl⟩ | ⟨_, _, _, hl⟩ | ⟨_, _, _⟩ |
    ⟨_, _, hl⟩ | ⟨_, _, _, _, _, _, _, _⟩
  · obtain rfl | rfl | rfl : n = 0x010 ∨ n = 0x01C ∨ n = 0x020 := by omega
    all_goals rfl
  · rw [hl]; rfl
  · rw [hl]; rfl
  · rw [hl]; rfl
  · rw [hl]; rfl
  · omega
  · rw [hl]; rfl
  · omega

/-- A write of a location that BUSY refuses records BUSY only. -/
theorem step_refuses {s : State} {off x : Word} (hop : HostOpNext s (.wr off x))
    (h4 : off.toNat % 4 = 0) (hspan : off.toNat < 0x10000 + s.params.msgMemBytes) (hb : s.busy = true)
    (hl : (locOf s.params off.toNat).refusedWhileBusy = true) :
    step s = .next (refusedWrite .busy (afterOp s)) := by
  rw [step_write hop h4 hspan rfl, State.writeLoc_busy (s := s.dropTurn) hb hl]
  rfl

/-- Settles O44: BUSY refuses by location, SEQUENCE is MSG_LEN's own. -/
theorem refusedWritesRecordTheirErrorOnly : Obligations.RefusedWritesRecordTheirErrorOnly := by
  intro s off x wf hop h4
  refine ⟨fun hb hoff => ?_, fun hb hi hoff => ?_⟩
  · obtain ⟨_, _, _, _, _, _⟩ := wf
    exact step_refuses hop h4 (by omega) hb (locOf_refusedWhileBusy h4 hoff)
  · rw [step_stores (l := .msgLen) hop ⟨h4, by omega⟩ (by rw [hoff]; rfl) (.inl hb), State.storeLoc,
      if_pos (show (afterOp s).inplace = true from hi)]
    rfl

/-- A read of a location that is unspecified now returns the next draw (log 3). -/
theorem step_draws {s : State} {off : Word} (hop : HostOpNext s (.rd off)) (h4 : off.toNat % 4 = 0)
    (hspan : off.toNat < 0x10000 + s.params.msgMemBytes) (hb : s.busy = true)
    (hl : (locOf s.params off.toNat).unspecifiedWhileBusy = true) :
    step s = .next { afterOp s with reads := Config.busyRead s.draws :: s.reads, draws := s.draws + 1 } := by
  rw [step_read hop h4 hspan rfl, State.hostRead, State.dropTurn_busy, hb, hl]
  rfl

/-! The memory windows (10_state.md R30) -/

/-- Word k of the key window: its offset is aligned and below the message window, and names its four bytes' address. -/
theorem keyWindow_at {p : Params} (wf : p.WellFormed) {k : Nat} (hk : 4 * k < p.keyMemBytes) {off : Word}
    (ho : off = BitVec.ofNat 32 (0x1000 + 4 * k)) :
    (off.toNat % 4 = 0 ∧ off.toNat < 0x10000) ∧ locOf p off.toNat = .key (4 * k) := by
  obtain ⟨_, _, _, _, _, _⟩ := wf
  have hoff : off.toNat = 0x1000 + 4 * k := by rw [ho, BitVec.toNat_ofNat]; omega
  rw [hoff]
  refine ⟨by omega, ?_⟩
  unfold locOf
  rw [if_neg (by omega), if_neg (by omega), if_neg (by omega), if_neg (by omega), if_neg (by omega), if_pos (by omega),
    Nat.add_sub_cancel_left]

/-- Word k of the message window: its offset is aligned and inside the span, and names its four bytes' address. -/
theorem msgWindow_at {p : Params} (wf : p.WellFormed) {k : Nat} (hk : 4 * k < p.msgMemBytes) {off : Word}
    (ho : off = BitVec.ofNat 32 (0x10000 + 4 * k)) :
    (off.toNat % 4 = 0 ∧ off.toNat < 0x10000 + p.msgMemBytes) ∧ locOf p off.toNat = .msg (4 * k) := by
  obtain ⟨_, _, _, _, _, _⟩ := wf
  have hoff : off.toNat = 0x10000 + 4 * k := by rw [ho, BitVec.toNat_ofNat]; omega
  rw [hoff]
  refine ⟨by omega, ?_⟩
  unfold locOf
  rw [if_neg (by omega), if_neg (by omega), if_neg (by omega), if_neg (by omega), if_neg (by omega), if_neg (by omega),
    if_pos (by omega), Nat.add_sub_cancel_left]

/-- A read of the key window is never unspecified (R97). -/
theorem step_readKeyWord {s : State} {k : Nat} (wf : s.params.WellFormed) (hk : 4 * k < s.params.keyMemBytes)
    (hop : HostOpNext s (.rd (BitVec.ofNat 32 (0x1000 + 4 * k)))) :
    step s = .next { afterOp s with reads := s.keyWindowWord (4 * k) :: s.reads } := by
  obtain ⟨hoff, hl⟩ := keyWindow_at wf hk rfl
  exact step_reads hop hoff hl (.inr rfl)

/-- Settles O49: each location of R97 answers a draw, each other one its value. -/
theorem busyReadsAreDrawsOrTrue : Obligations.BusyReadsAreDrawsOrTrue := by
  intro s off wf hb hop h4
  refine ⟨fun hoff => ?_, fun y hy => ?_⟩
  · exact step_draws hop h4 (by omega) hb (locOf_unspecifiedWhileBusy wf hoff)
  · rcases hy with hy | ⟨k, hk, rfl, rfl⟩
    · have read (l : Loc) (ho : off.toNat < 0x10000 := by decide) (hl : locOf s.params off.toNat = l := by rfl)
          (htrue : l.unspecifiedWhileBusy = false := by rfl) (hy : s.readLoc l = y := by rfl) :
          step s = .next { afterOp s with reads := y :: s.reads } := hy ▸ step_reads hop ⟨h4, ho⟩ hl (.inr htrue)
      fin_cases hy
      exacts [read .id, read .cmd, read .status, read .ctrl, read .keyLen, read .blkOff]
    · exact step_readKeyWord wf hk hop

/-- The lanes of a word written at `b`, byte by byte (R86). -/
theorem bytes32_lanes (x : Word) (a b : Nat) (old : Byte) :
    (if b ≤ a ∧ a < b + (bytes32 x).length then (bytes32 x).getD (a - b) 0 else old) =
      if a = b then x.extractLsb' 24 8 else if a = b + 1 then x.extractLsb' 16 8
      else if a = b + 2 then x.extractLsb' 8 8 else if a = b + 3 then x.extractLsb' 0 8 else old := by
  rw [bytes32_length]
  by_cases hin : b ≤ a ∧ a < b + 4
  · obtain ⟨i, rfl⟩ := Nat.exists_eq_add_of_le hin.1
    have hi : i < 4 := by omega
    interval_cases i <;> simp [bytes32]
  · rw [if_neg hin, if_neg (by omega), if_neg (by omega), if_neg (by omega), if_neg (by omega)]

/-- Settles O47: a window access is a MemWrite or read of the word's four bytes at its address. -/
theorem windowsAreBigEndian : Obligations.WindowsAreBigEndian := by
  intro s k x wf hb
  refine ⟨fun hk => ?_, fun hk => ⟨fun hop => ?_, step_readKeyWord wf hk⟩⟩
  · obtain ⟨⟨h4, hspan⟩, hl⟩ := msgWindow_at wf hk rfl
    refine ⟨fun hop => ⟨s.msgMem.writeBytes (4 * k) (bytes32 x), ?_, fun a => ?_⟩, fun hop => ?_⟩
    · rw [step_write hop h4 hspan hl, State.writeLoc_idle (s := s.dropTurn) (.inl hb)]
      rfl
    · exact (s.msgByte_memWrite (4 * k) (bytes32 x) a).trans (bytes32_lanes x a (4 * k) _)
    · rw [step_read hop h4 hspan hl, State.hostRead_true (s := s.dropTurn) (.inl hb)]
      rfl
  · obtain ⟨hoff, hl⟩ := keyWindow_at wf hk rfl
    refine ⟨s.keyMem.writeBytes (4 * k) (bytes32 x), ?_, fun a => ?_⟩
    · exact step_stores hop hoff hl (.inl hb)
    · exact (s.keyByte_keyWrite (4 * k) (bytes32 x) a).trans (bytes32_lanes x a (4 * k) _)

/-! The host's turn while a command is pending -/

/-- Only the flags a host may write, a recorded error, and the host's own side may differ. -/
def OnlyFlagsAndHostSideMoved (s t : State) : Prop :=
  t = { s with
    done := t.done, err := t.err, errCode := t.errCode, ieDone := t.ieDone, ieErr := t.ieErr, draws := t.draws
    script := t.script, schedule := t.schedule, reads := t.reads }

/-- While BUSY = 1 a write reaches STATUS, CTRL and the error record only (R91). -/
theorem onlyFlagsAndHostSideMoved_write {s : State} (hb : s.busy = true) (l : Loc) (x : Word) :
    OnlyFlagsAndHostSideMoved s (s.dropTurn.writeLoc l x).dropOp := by
  cases l with
  | cmd | msgLen | keyLen | blkOff | h _ | v _ | w _ | key _ | msg _ =>
    rw [State.writeLoc_busy (s := s.dropTurn) hb rfl]
    rfl
  | id | status | ctrl | blkIdx | origLen | dg _ | unmapped =>
    rw [State.writeLoc_idle (.inr rfl)]
    rfl

theorem OnlyHostSideMoved.onlyFlagsAndHostSideMoved {s t : State} (h : OnlyHostSideMoved s t) :
    OnlyFlagsAndHostSideMoved s t := by
  rw [h]
  rfl

/-- Settles O59: on the host's turn a step is quiet or a write, and either leaves the inputs alone. -/
theorem hostCannotChangeAPendingCommandsInputs : Obligations.HostCannotChangeAPendingCommandsInputs := by
  intro s t hT hb h
  have notHost {a : Turn} (ha : s.turn = some a) (hne : a ≠ .host) : False :=
    hne (Option.some.inj (ha.symm.trans hT))
  have kept : OnlyFlagsAndHostSideMoved s t := by
    cases stepKind h with
    | quiet same => exact same.onlyFlagsAndHostSideMoved
    | write _ _ => exact onlyFlagsAndHostSideMoved_write hb _ _
    | perform pending _ _ => exact (notHost pending.1 (by decide)).elim
    | illegal pending _ => exact (notHost pending.1 (by decide)).elim
    | reset turn => exact (notHost turn (by decide)).elim
  rw [kept]
  exact ⟨hb, rfl, rfl, rfl, rfl, rfl, rfl, rfl, rfl, rfl, ⟨rfl, rfl, rfl, rfl⟩, fun _ => ⟨rfl, rfl⟩, rfl, rfl⟩

end Sys2Proof.Machine
end

section
/-! The three fields of a command word, and decoding as their values (30_encoding.md R110 to R116). -/

namespace Sys2Proof

/-- What RIDX holds in the word of a command: ROUND's index, and 0 for every other command (R112). -/
def Instr.operand : Instr → Nat
  | .round ridx => ridx
  | _ => 0

theorem opcodeOf_le (i : Instr) : opcodeOf i ≤ 0x0A := by
  cases i <;> simp [opcodeOf]

theorem Instr.operand_of_opcode {i : Instr} (h : opcodeOf i ≠ 0x07) : i.operand = 0 := by
  cases i with
  | round ridx => exact absurd rfl h
  | _ => rfl

theorem opField_eq (w : Word) : opField w = w.toNat % 2 ^ 8 := by
  rw [opField, BitVec.extractLsb'_toNat, Nat.shiftRight_zero]

theorem ridxField_eq (w : Word) : ridxField w = w.toNat / 2 ^ 8 % 2 ^ 8 := by
  rw [ridxField, BitVec.extractLsb'_toNat, Nat.shiftRight_eq_div_pow]

theorem rsvField_eq (w : Word) : rsvField w = w.toNat / 2 ^ 16 := by
  rw [rsvField, BitVec.extractLsb'_toNat, Nat.shiftRight_eq_div_pow, Nat.mod_eq_of_lt]
  omega

/-- OP, RIDX and RSV are all of a word (R110). -/
theorem word_ext_fields {w x : Word} (hrsv : rsvField w = rsvField x) (hop : opField w = opField x)
    (hridx : ridxField w = ridxField x) : w = x := by
  simp only [rsvField_eq, opField_eq, ridxField_eq] at hrsv hop hridx
  exact BitVec.eq_of_toNat_eq (by omega)

/-- R111's table read from OP to command is the table read from command to OP. -/
theorem instrOfOp_eq_some_iff {op ridx : Nat} {i : Instr} :
    instrOfOp op ridx = some i ↔ op = opcodeOf i ∧ (op = 0x07 → ridx = i.operand) := by
  constructor
  · intro h
    unfold instrOfOp at h
    split at h <;> cases h <;> simp [opcodeOf, Instr.operand]
  · rintro ⟨rfl, hridx⟩
    cases i with
    | round r => exact congrArg (some ∘ Instr.round) (hridx rfl)
    | _ => rfl

/-- R114 field by field: the legal words of a command. -/
theorem decode_eq_ok_iff {w : Word} {i : Instr} :
    decode w = .ok i ↔ rsvField w = 0 ∧ opField w = opcodeOf i ∧ ridxField w = i.operand := by
  constructor
  · intro h
    unfold decode at h
    split at h
    · cases h
    next hrsv =>
    split at h
    · cases h
    next hi =>
    split at h <;> cases h
    next hstray =>
    obtain ⟨hop, hridx⟩ := instrOfOp_eq_some_iff.1 hi
    refine ⟨not_not.1 hrsv, hop, ?_⟩
    by_cases h7 : opField w = 0x07
    · exact hridx h7
    · rw [Instr.operand_of_opcode (hop ▸ h7)]
      exact not_not.1 fun h0 => hstray ⟨h7, h0⟩
  · rintro ⟨hrsv, hop, hridx⟩
    have hstray : ¬(opField w ≠ 0x07 ∧ ridxField w ≠ 0) :=
      fun ⟨h7, h0⟩ => h0 (hridx.trans (Instr.operand_of_opcode (hop ▸ h7)))
    simp only [decode, hrsv, instrOfOp_eq_some_iff.2 ⟨hop, fun _ => hridx⟩, if_neg hstray, ne_eq, not_true_eq_false,
      if_false]

/-- The laws on the word of each command, together (R111, R112, R120). -/
theorem encode_fields {i : Instr} (wf : i.WellFormed) :
    rsvField (encode i) = 0 ∧ opField (encode i) = opcodeOf i ∧ ridxField (encode i) = i.operand := by
  cases i with
  | nop => exact Laws.EncodingShape.nop wf
  | clear => exact Laws.EncodingShape.clear wf
  | pad => exact Laws.EncodingShape.pad wf
  | init => exact Laws.EncodingShape.init wf
  | block => exact Laws.EncodingShape.block wf
  | final => exact Laws.EncodingShape.final wf
  | expand => exact Laws.EncodingShape.expand wf
  | round ridx => exact Laws.EncodingShape.round ridx wf
  | compress => exact Laws.EncodingShape.compress wf
  | hash => exact Laws.EncodingShape.hash wf
  | hmac => exact Laws.EncodingShape.hmac wf

/-- A command whose operand fits in RIDX fits in a word (R112). -/
theorem Instr.wellFormed_of_operand_lt {i : Instr} (h : i.operand < 256) : i.WellFormed := by
  cases i with
  | round ridx => exact h
  | _ => trivial

/-- Settles O1: the word of a command has the fields its decoding asks for. -/
theorem decodingAnEncodedCommandGivesItBack : Obligations.DecodingAnEncodedCommandGivesItBack :=
  fun _ wf => decode_eq_ok_iff.2 (encode_fields wf)

/-- Settles O2: a legal word and the encoder's word agree in all three fields. -/
theorem everyLegalWordIsItsCommandsWord : Obligations.EveryLegalWordIsItsCommandsWord := by
  intro w i hd
  obtain ⟨hrsv, hop, hridx⟩ := decode_eq_ok_iff.1 hd
  have wf : i.WellFormed := Instr.wellFormed_of_operand_lt (hridx ▸ (w.extractLsb' 8 8).isLt)
  obtain ⟨ersv, eop, eridx⟩ := encode_fields wf
  exact ⟨wf, word_ext_fields (ersv.trans hrsv.symm) (eop.trans hop.symm) (eridx.trans hridx.symm)⟩

/-- Settles O3: the decoder evaluated at each word. -/
theorem tableWordsDecodeToTheirCommands : Obligations.TableWordsDecodeToTheirCommands := by
  unfold Obligations.TableWordsDecodeToTheirCommands
  decide

end Sys2Proof
end

section
/-! The engine's turn on every pending word, and the host's `wait` (30_encoding.md R111, R114, R122). -/

namespace Sys2Proof.Machine

/-- The three grounds of R114 on which a word is no command, by its value. -/
theorem decode_error_of_illegal {w : Word}
    (h : w.toNat / 2 ^ 16 ≠ 0 ∨ 0x0A < w.toNat % 2 ^ 8 ∨ (w.toNat % 2 ^ 8 ≠ 0x07 ∧ w.toNat / 2 ^ 8 % 2 ^ 8 ≠ 0)) :
    ∃ r, decode w = .error r := by
  cases hd : decode w with
  | error r => exact ⟨r, rfl⟩
  | ok i =>
    obtain ⟨hrsv, hop, hridx⟩ := decode_eq_ok_iff.1 hd
    rw [rsvField_eq] at hrsv
    rw [opField_eq] at hop
    rw [ridxField_eq] at hridx
    rcases h with h | h | ⟨h7, h0⟩
    · exact absurd hrsv h
    · exact absurd (hop ▸ opcodeOf_le i) (not_le.2 h)
    · exact absurd (hridx.trans (Instr.operand_of_opcode (hop ▸ h7))) h0

/-- A pending word that is no command completes with ILLEGAL_CMD (R114, 60_exceptions.md R214). -/
theorem step_illegal {s : State} {w : Word} {r : Reject} (pending : WordPending s w) (hd : decode w = .error r) :
    step s = .next (completedWith .illegalCmd s.dropTurn) := by
  rw [step_performs pending, performWord, hd]
  rfl

/-- A pending word whose value is that of a row of R111's table runs the command of that row. -/
theorem step_runs {s : State} {w : Word} (pending : WordPending s w) (i : Instr) (wf : i.operand < 2 ^ 8)
    (h : w.toNat = i.operand * 2 ^ 8 + opcodeOf i) : step s = exec i s.dropTurn := by
  have hop := opcodeOf_le i
  refine engineStepRunsTheDecodedCommand s w i pending (decode_eq_ok_iff.2 ⟨?_, ?_, ?_⟩)
  · rw [rsvField_eq]; omega
  · rw [opField_eq]; omega
  · rw [ridxField_eq]; omega

/-- Settles O4: a CMD write is accepted whatever its word; the engine's turn follows the word's fields. -/
theorem engineDecodesAndDispatchesEveryWord : Obligations.EngineDecodesAndDispatchesEveryWord := by
  refine fun s w => ⟨fun hop hb => (cmdWriteIssuesWhenIdle.1 s w hop).1 hb, fun pending => ⟨fun h => ?_, ?_⟩⟩
  · obtain ⟨r, hd⟩ := decode_error_of_illegal h
    exact step_illegal pending hd
  · exact ⟨step_runs pending .nop (by decide), step_runs pending .clear (by decide),
      step_runs pending .pad (by decide), step_runs pending .init (by decide), step_runs pending .block (by decide),
      step_runs pending .final (by decide), step_runs pending .expand (by decide),
      fun ridx hr => step_runs pending (.round ridx) hr, step_runs pending .compress (by decide),
      step_runs pending .hash (by decide), step_runs pending .hmac (by decide)⟩

/-- BUSY is bit 0 of STATUS (10_state.md R33). -/
theorem State.statusWord_bit0 (s : State) : s.statusWord.getLsbD 0 = s.busy := by
  unfold State.statusWord
  rw [BitVec.getLsbD_append]
  cases s.busy <;> rfl

theorem HostOpNext.step_wait {s : State} (h : HostOpNext s .wait) : step s = .next s.dropTurn.poll := by
  obtain ⟨_, hs⟩ := h.script_eq
  rw [step_host h.1, hostStep, hs]

/-- A poll reads the true STATUS, and the host is done with it when BUSY = 0 (R122). -/
theorem State.poll_eq (s : State) :
    s.poll = if s.busy then s.answer s.statusWord else (s.answer s.statusWord).dropOp := by
  rw [State.poll, State.hostRead_true (.inr rfl), State.statusWord_bit0]
  rfl

/-- Settles O52: the poll stays at `wait` or goes on, as BUSY says. -/
theorem waitPollsStatusUntilIdle : Obligations.WaitPollsStatusUntilIdle := by
  refine fun s hop => ⟨fun hb => ?_, fun hb => ?_⟩ <;> rw [hop.step_wait, State.poll_eq, State.dropTurn_busy, hb] <;> rfl

end Sys2Proof.Machine
end

section
/-! The pure 32-bit functions: the adder, the rotator, the nonlinear function and the constants (40_datapath.md). -/

namespace Sys2Proof.Machine

/-! The adder (R130) -/

@[simp] theorem add32_toNat (x y : Word) : (add32 x y).toNat = (x.toNat + y.toNat) % 2 ^ 32 := BitVec.toNat_add x y

/-! The rotator (R131, R137) -/

theorem rotl32_zero (x : Word) : rotl32 x 0 = x := rfl

/-- The model's rotator is the library's. -/
theorem rotl32_eq_rotateLeft (x : Word) {n : Nat} (hn : n ≤ 31) : rotl32 x n = x.rotateLeft n := by
  rw [BitVec.rotateLeft_def, Nat.mod_eq_of_lt (by omega), rotl32]
  split
  next h0 => rw [h0, BitVec.shiftLeft_zero, BitVec.ushiftRight_eq_zero (le_refl 32), BitVec.or_zero]
  next => rfl

/-- Rotating left moves each bit `n` places up, cyclically. -/
theorem getElem_rotl32 (x : Word) {n i : Nat} (hn : n ≤ 31) (hi : i < 32) :
    (rotl32 x n)[i] = x[(i + 32 - n) % 32]'(Nat.mod_lt _ (by decide)) := by
  simp only [rotl32_eq_rotateLeft x hn, BitVec.getElem_rotateLeft, Nat.mod_eq_of_lt (Nat.lt_succ_of_le hn)]
  split <;> congr 1 <;> omega

/-- The bits that stay below 2^32 and the bits that come round do not overlap, so their `or` is their sum. -/
theorem rotl32_toNat (x : Word) {n : Nat} (hn : n ≤ 31) :
    (rotl32 x n).toNat = x.toNat * 2 ^ n % 2 ^ 32 + x.toNat / 2 ^ (32 - n) := by
  have hpow : 2 ^ 32 = 2 ^ n * 2 ^ (32 - n) := by rw [← pow_add, Nat.add_sub_cancel' (by omega)]
  have low : x.toNat / 2 ^ (32 - n) < 2 ^ n := by
    rw [Nat.div_lt_iff_lt_mul (by positivity), ← hpow]
    exact x.isLt
  have high : x.toNat * 2 ^ n % 2 ^ 32 = 2 ^ n * (x.toNat % 2 ^ (32 - n)) := by
    rw [hpow, mul_comm, Nat.mul_mod_mul_left]
  rw [rotl32_eq_rotateLeft x hn, BitVec.toNat_rotateLeft, Nat.mod_eq_of_lt (Nat.lt_succ_of_le hn), Nat.shiftLeft_eq,
    Nat.shiftRight_eq_div_pow, high, Nat.two_pow_add_eq_or_of_lt low]

/-- Settles O23: add32 is the sum of words; the rotator's two halves add up. -/
theorem adderWrapsAndRotatorRotates : Obligations.AdderWrapsAndRotatorRotates := by
  refine ⟨add32_toNat, fun x y z => ?_, rotl32_zero, fun x n _ hn => rotl32_toNat x hn⟩
  rw [add32_toNat, add32_toNat, Nat.mod_add_mod]

theorem rotl32_rotl32 (x : Word) {m n : Nat} (hm : m ≤ 31) (hn : n ≤ 31) :
    rotl32 (rotl32 x m) n = rotl32 x ((m + n) % 32) := by
  ext i hi
  rw [getElem_rotl32 _ hn hi, getElem_rotl32 x hm, getElem_rotl32 x (by omega) hi]
  congr 1
  omega

theorem rotl32_xor (x y : Word) {n : Nat} (hn : n ≤ 31) : rotl32 (x ^^^ y) n = rotl32 x n ^^^ rotl32 y n := by
  ext i hi
  simp only [BitVec.getElem_xor, getElem_rotl32 _ hn hi]

/-- Settles O24: bit by bit, a rotation only permutes the places. -/
theorem rotationsComposeAndCommuteWithXor : Obligations.RotationsComposeAndCommuteWithXor :=
  ⟨fun x _ _ hm hn => rotl32_rotl32 x hm hn, fun x y _ hn => rotl32_xor x y hn⟩

/-! The nonlinear function (R132, R133) -/

theorem not32_eq_not (x : Word) : not32 x = ~~~x := BitVec.xor_allOnes

section
variable {i : Fin 80} (b c d : Word)

theorem nonlinear_eq_ch (h : i.val < 20) : nonlinear i b c d = (b &&& c) ||| (~~~b &&& d) := by
  rw [nonlinear, if_pos h, not32_eq_not]

theorem nonlinear_eq_maj (h40 : 40 ≤ i.val) (h60 : i.val < 60) :
    nonlinear i b c d = (b &&& c) ||| (b &&& d) ||| (c &&& d) := by
  rw [nonlinear, if_neg (by omega), if_neg (by omega), if_pos h60]

theorem nonlinear_eq_parity (h : (20 ≤ i.val ∧ i.val < 40) ∨ 60 ≤ i.val) : nonlinear i b c d = b ^^^ c ^^^ d := by
  rw [nonlinear, if_neg (by omega)]
  split
  next => rfl
  next => rw [if_neg (by omega)]

end

/-- Settles O25: Ch, Parity, Maj, Parity. -/
theorem nonlinearFunctionFollowsTheRoundIndex : Obligations.NonlinearFunctionFollowsTheRoundIndex := fun _ b c d =>
  ⟨nonlinear_eq_ch b c d, fun h20 h40 => nonlinear_eq_parity b c d (.inl ⟨h20, h40⟩), nonlinear_eq_maj b c d,
    fun h60 => nonlinear_eq_parity b c d (.inr h60)⟩

/-! The round constants and the IV (R134 to R136) -/

theorem roundConstant_of_div {i : Fin 80} (j : Fin 4) (h : i.val / 20 = j) : roundConstant i = roundConstants[j] := by
  simp only [roundConstant, h, Fin.getElem_fin]

/-- Settles O26: each range of the round index is one value of `i / 20`. -/
theorem roundConstantsAndIvHaveTheFipsValues : Obligations.RoundConstantsAndIvHaveTheFipsValues :=
  ⟨fun _ => ⟨fun h20 => roundConstant_of_div 0 (Nat.div_eq_of_lt h20),
    fun h20 h40 => roundConstant_of_div 1 (Nat.div_eq_of_lt_le h20 h40),
    fun h40 h60 => roundConstant_of_div 2 (Nat.div_eq_of_lt_le h40 h60),
    fun h60 => roundConstant_of_div 3 (Nat.div_eq_of_lt_le h60 (Fin.isLt _))⟩, rfl⟩

end Sys2Proof.Machine
end

section
/-! PAD and the padded form of a message (41_padding.md). -/

namespace Sys2Proof.Machine

/-! The padded form byte by byte (R150, R151) -/

section
variable (m : List Byte)

/-- The message and, behind it, the padding as one list. -/
theorem padBytes_eq_append :
    padBytes m = m ++ ([0x80#8] ++ List.replicate (padZeros m.length) 0x00#8 ++ bytes64 (8 * m.length)) := by
  simp only [padBytes, List.append_assoc]

theorem padBytes_take : (padBytes m).take m.length = m := by
  rw [padBytes_eq_append, List.take_left]

theorem padBytes_getElem?_marker : (padBytes m)[m.length]? = some 0x80#8 := by simp [padBytes]

theorem padBytes_getElem?_zeros {k : Nat} (hk : k < padZeros m.length) :
    (padBytes m)[m.length + 1 + k]? = some 0x00#8 := by
  have hlen : (m ++ [0x80#8]).length = m.length + 1 := List.length_append
  rw [padBytes, List.getElem?_append_left (by simp; omega), List.getElem?_append_right (by omega), hlen,
    Nat.add_sub_cancel_left, List.getElem?_replicate_of_lt hk]

theorem padBytes_getElem?_bitLength (k : Nat) :
    (padBytes m)[m.length + 1 + padZeros m.length + k]? = (bytes64 (8 * m.length))[k]? := by
  have hlen : (m ++ [0x80#8] ++ List.replicate (padZeros m.length) 0x00#8).length =
      m.length + 1 + padZeros m.length := by
    rw [List.length_append, List.length_append, List.length_replicate]; rfl
  rw [padBytes, List.getElem?_append_right (by omega), hlen, Nat.add_sub_cancel_left]

end

/-- `bytes64_getD` with the byte as an element of the list (00_scope.md R14). -/
theorem bytes64_getElem? (n : Nat) {k : Nat} (hk : k < 8) :
    ∃ b, (bytes64 n)[k]? = some b ∧ b.toNat = n / 2 ^ (8 * (7 - k)) % 2 ^ 8 := by
  have hk' : k < (bytes64 n).length := by rwa [bytes64_length]
  refine ⟨_, List.getElem?_eq_getElem hk', ?_⟩
  rw [← bytes64_getD n k hk, List.getD_eq_getElem _ _ hk']

/-- Settles O27: the four pieces of the padded form, counted from its start. -/
theorem paddingInvariant : Obligations.PaddingInvariant := by
  intro m
  have hend : (padBytes m).length - 8 = m.length + 1 + padZeros m.length := by
    rw [padBytes_length, paddedLength]; omega
  rw [hend]
  refine ⟨(padBytes_length m).trans (paddedLength_eq _), padBytes_take m, padBytes_getElem?_marker m,
    fun k hlo hhi => ?_, fun k hk => ?_⟩
  · obtain ⟨j, rfl⟩ := Nat.exists_eq_add_of_le (Nat.succ_le_of_lt hlo)
    exact padBytes_getElem?_zeros m (by omega)
  · rw [padBytes_getElem?_bitLength]
    exact bytes64_getElem? _ hk

/-! The message memory after PAD (R152) -/

/-- The padding is laid behind the message, so the memory reads as the padded message. -/
theorem State.memRead_padInPlace (s : State) :
    s.padInPlace.memRead 0 (paddedLength s.msgLen.toNat) = padBytes (s.memRead 0 s.msgLen.toNat) := by
  refine List.ext_getElem (by simp) fun a ha hb => ?_
  rw [State.memRead_length] at ha
  rw [← List.getD_eq_getElem _ 0, ← List.getD_eq_getElem _ 0, State.memRead_getD _ _ _ _ ha, Nat.zero_add,
    State.msgByte_padInPlace, padBytes_eq_append, State.memRead_length]
  by_cases hmsg : a < s.msgLen.toNat
  · rw [if_neg (by omega), List.getD_append _ _ _ _ (by simpa), State.memRead_getD _ _ _ _ hmsg, Nat.zero_add]
  · rw [if_pos (by omega), List.getD_append_right (s.memRead 0 s.msgLen.toNat) _ _ _ (by simpa using hmsg),
      State.memRead_length]

theorem State.msgByte_padInPlace_of_padBytes {s : State} {a : Nat} {b : Byte}
    (h : (padBytes (s.memRead 0 s.msgLen.toNat))[a]? = some b) : s.padInPlace.msgByte a = b := by
  rw [← State.memRead_padInPlace] at h
  obtain ⟨_, rfl⟩ := List.getElem?_eq_some_iff.1 h
  simp [State.memRead]

/-! The ends of PAD (R152, 60_exceptions.md R211, R212) -/

theorem State.fail_eq_completedWith (c : ErrCode) (s : State) : s.fail c = completedWith c s := rfl

section
variable {s : State}

theorem execPad_of_phase_ne (hp : s.phase ≠ .empty) : execPad s = .next (completedWith .sequence s) := by
  rw [execPad, if_pos hp, finish_error, State.fail_eq_completedWith]

variable (hp : s.phase = .empty)
include hp

theorem execPad_of_msgLen_gt (hr : s.params.msgMemBytes < s.msgLen.toNat) :
    execPad s = .next (completedWith .range s) := by
  rw [execPad, if_neg (not_not.2 hp), if_pos hr, finish_error, State.fail_eq_completedWith]

theorem execPad_of_paddedLength_gt (hr : s.msgLen.toNat ≤ s.params.msgMemBytes)
    (hc : s.params.msgMemBytes < paddedLength s.msgLen.toNat) : execPad s = .next (completedWith .capacity s) := by
  rw [execPad, if_neg (not_not.2 hp), if_neg (not_lt.2 hr), if_pos hc, finish_error, State.fail_eq_completedWith]

theorem execPad_of_paddedLength_le (hc : paddedLength s.msgLen.toNat ≤ s.params.msgMemBytes) :
    execPad s = .next s.padInPlace.complete := by
  have hr : s.msgLen.toNat ≤ s.params.msgMemBytes := by rw [paddedLength] at hc; omega
  rw [execPad, if_neg (not_not.2 hp), if_neg (not_lt.2 hr), if_neg (not_lt.2 hc), finish_ok]

end

@[simp] theorem State.msgByte_complete (s : State) (a : Nat) : s.complete.msgByte a = s.msgByte a :=
  State.msgByte_congr rfl rfl a

/-- Settles O18: PAD completes with the padding laid behind the message. -/
theorem paddedMemoryHoldsThePaddedMessage : Obligations.PaddedMemoryHoldsThePaddedMessage := by
  intro s wf hp hc
  have hlen : s.padInPlace.complete.msgLen.toNat = paddedLength s.msgLen.toNat := State.padInPlace_msgLen_toNat wf hc
  refine ⟨_, execPad_of_paddedLength_le hp hc, ?_, ?_⟩ <;> rw [hlen]
  · exact s.memRead_padInPlace
  · rw [padBytes_length, State.memRead_length]

/-- R150's z as an integer remainder. -/
theorem toNat_emod_eq_padZeros (len : Nat) : ((55 - (len : Int)) % 64).toNat = padZeros len := by
  rw [padZeros]; omega

/-- The bytes of the message memory after PAD: the marker, the zeros, the bit length, and the rest as before (R152). -/
theorem State.padInPlace_pieces (s : State) :
    s.padInPlace.msgByte s.msgLen.toNat = 0x80#8 ∧
    (∀ k, k < padZeros s.msgLen.toNat → s.padInPlace.msgByte (s.msgLen.toNat + 1 + k) = 0x00#8) ∧
    (∀ k, k < 8 → (s.padInPlace.msgByte (s.msgLen.toNat + 1 + padZeros s.msgLen.toNat + k)).toNat =
      8 * s.msgLen.toNat / 2 ^ (8 * (7 - k)) % 2 ^ 8) ∧
    (∀ a, a < s.msgLen.toNat ∨ paddedLength s.msgLen.toNat ≤ a → s.padInPlace.msgByte a = s.msgByte a) := by
  refine ⟨State.msgByte_padInPlace_of_padBytes ?_, fun k hk => State.msgByte_padInPlace_of_padBytes ?_,
    fun k hk => ?_, fun a ha => ?_⟩
  · simpa only [State.memRead_length] using padBytes_getElem?_marker (s.memRead 0 s.msgLen.toNat)
  · simpa only [State.memRead_length, hk, forall_const] using
      padBytes_getElem?_zeros (s.memRead 0 s.msgLen.toNat) (k := k)
  · obtain ⟨b, hb, hval⟩ := bytes64_getElem? (8 * s.msgLen.toNat) hk
    have h := padBytes_getElem?_bitLength (s.memRead 0 s.msgLen.toNat) k
    rw [State.memRead_length, hb] at h
    rw [State.msgByte_padInPlace_of_padBytes h, hval]
  · rw [State.msgByte_padInPlace, if_neg (by omega)]

/-- Settles O17: each check in its order, then the bytes of `State.padInPlace_pieces` and what no command writes. -/
theorem padAppendsThePaddingInPlace : Obligations.PadAppendsThePaddingInPlace := by
  refine ⟨by decide, fun s wf => ?_⟩
  have hpl : s.msgLen.toNat + 9 + padZeros s.msgLen.toNat = paddedLength s.msgLen.toNat := rfl
  simp only [toNat_emod_eq_padZeros, hpl, exec_pad]
  refine ⟨execPad_of_phase_ne, execPad_of_msgLen_gt, execPad_of_paddedLength_gt, fun hp hc => ?_⟩
  have h := execPad_of_paddedLength_le hp hc
  obtain ⟨hmarker, hzeros, hbits, hrest⟩ := s.padInPlace_pieces
  obtain ⟨hsur, hcmd, hkl, hbo, hid, hie, hkey, -⟩ := exec_frame (i := .pad) h
  simp only [← State.msgByte_complete s.padInPlace] at hmarker hzeros hbits hrest
  exact ⟨_, h, State.padInPlace_msgLen_toNat wf hc, s.padInPlace_origLen, s.padInPlace_blkIdx, s.padInPlace_inplace,
    s.padInPlace_phase, rfl, rfl, rfl, s.padInPlace_err, s.padInPlace_errCode, hmarker, hzeros, hbits, hrest,
    State.keyByte_congr hkey hsur.2.1, hcmd, hid, hie, hkl, hbo,
    ⟨s.padInPlace_h, s.padInPlace_v, s.padInPlace_w, s.padInPlace_dg⟩, hsur⟩

end Sys2Proof.Machine
end

section
/-! EXPAND (42_schedule.md). -/

namespace Sys2Proof.Machine

/-- Word j of a block in the message memory, for a block of any length that holds it (R160). -/
theorem State.blockWord_memRead (s : State) (a : Nat) {n j : Nat} (h : 4 * j + 4 ≤ n) :
    blockWord (s.memRead a n) j = be32 (s.msgByte (a + 4 * j)) (s.msgByte (a + 4 * j + 1)) (s.msgByte (a + 4 * j + 2))
      (s.msgByte (a + 4 * j + 3)) := by
  rw [blockWord, State.memRead_getD _ _ _ _ (by omega), State.memRead_getD _ _ _ _ (by omega),
    State.memRead_getD _ _ _ _ (by omega), State.memRead_getD _ _ _ _ (by omega)]
  rfl

/-! The ends of EXPAND (R161, 60_exceptions.md R211) -/

section
variable {s : State}

theorem execExpand_of_block_beyond (h : s.params.msgMemBytes < s.blkOff.toNat + 64) :
    execExpand s = .next (completedWith .range s) := by
  rw [execExpand, if_pos h, finish_error, State.fail_eq_completedWith]

theorem execExpand_of_block_within (h : s.blkOff.toNat + 64 ≤ s.params.msgMemBytes) :
    execExpand s = .next (completed { s with w := expand (s.memRead s.blkOff.toNat 64) }) := by
  rw [execExpand, if_neg (not_lt.2 h), finish_ok]
  rfl

end

/-- Settles O13: the schedule is `expand` of the block, whose words are `expand_first` and `expand_rec`. The premise only
keeps MSG_MEM_BYTES - 64 from being cut off at 0. -/
theorem expandWritesTheScheduleOfTheBlockAtBlkOff : Obligations.ExpandWritesTheScheduleOfTheBlockAtBlkOff := by
  refine ⟨by decide, fun s wf => ?_⟩
  obtain ⟨_, _, _, _, hcap, _⟩ := wf
  rw [exec_expand]
  refine ⟨fun h => execExpand_of_block_beyond (by omega),
    fun h => ⟨_, execExpand_of_block_within (by omega), fun j hj => ?_, expand_rec _⟩⟩
  rw [expand_first _ j hj, State.blockWord_memRead s _ (by omega)]

end Sys2Proof.Machine
end

section
/-! ROUND and COMPRESS (43_compression.md). -/

namespace Sys2Proof.Machine

/-! ROUND's words and its two ends (R120, R172, 60_exceptions.md R211) -/

theorem decode_round {i : Nat} (hi : i < 256) : decode (BitVec.ofNat 32 (i * 2 ^ 8 + 0x07)) = .ok (.round i) := by
  have hw : (BitVec.ofNat 32 (i * 2 ^ 8 + 0x07)).toNat = i * 2 ^ 8 + 0x07 := by rw [BitVec.toNat_ofNat]; omega
  refine decode_eq_ok_iff.2 ⟨?_, ?_, ?_⟩
  · rw [rsvField_eq, hw]; omega
  · rw [opField_eq, hw, opcodeOf]; omega
  · rw [ridxField_eq, hw, Instr.operand]; omega

theorem execRound_of_lt (s : State) {i : Nat} (hi : i < 80) :
    execRound i s = .next (completed { s with v := roundStep ⟨i, hi⟩ s.v s.w[i] }) := by
  rw [execRound, dif_pos hi, finish_ok]
  rfl

theorem execRound_of_ge (s : State) {i : Nat} (hi : 80 ≤ i) : execRound i s = .next (completedWith .range s) := by
  rw [execRound, dif_neg (not_lt.2 hi), finish_error, State.fail_eq_completedWith]

/-- Settles O14: `roundStep` written out is R170's round. -/
theorem roundPerformsOneRound : Obligations.RoundPerformsOneRound :=
  ⟨fun _ => decode_round, fun s _ => ⟨execRound_of_lt s, execRound_of_ge s⟩⟩

/-! COMPRESS as the end of a sequence of rounds (R171, R173) -/

theorem execCompress_eq (s : State) :
    execCompress s = .next (completed { s with h := s.h.add (rounds s.w s.h), v := rounds s.w s.h }) := rfl

/-- Settles O15: the 80 rounds from H are the 80th of the sequence (`rounds_eq`). -/
theorem compressChainsEightyRoundsIntoTheState : Obligations.CompressChainsEightyRoundsIntoTheState := by
  refine ⟨by decide, fun s q h0 hq => ?_⟩
  have hrounds : rounds s.w s.h = q 80 := h0 ▸ rounds_eq s.w q hq
  rw [exec_compress, execCompress_eq, hrounds]
  rfl

/-! The commands ROUND 0 .. ROUND n - 1 in order (R172, corner cases) -/

/-- The working values after the first n rounds from `v` on the schedule `w` (R171). -/
def valuesAfter (w : Vector Word 80) (v : Quint) : Nat → Quint
  | 0 => v
  | n + 1 => if hn : n < 80 then roundStep ⟨n, hn⟩ (valuesAfter w v n) w[n] else valuesAfter w v n

theorem valuesAfter_succ (w : Vector Word 80) (v : Quint) (n : Nat) (hn : n < 80) :
    valuesAfter w v (n + 1) = roundStep ⟨n, hn⟩ (valuesAfter w v n) w[n] := by
  rw [valuesAfter, dif_pos hn]

theorem valuesAfter_eighty (w : Vector Word 80) (v : Quint) : valuesAfter w v 80 = rounds w v :=
  (rounds_eq w (valuesAfter w v) (valuesAfter_succ w v)).symm

/-- ROUND 0 .. ROUND n - 1 take V through n rounds and leave H and W alone. -/
theorem runCommands_rounds (s : State) {n : Nat} (hn : n ≤ 80) :
    ∃ t : State, runCommands ((List.range n).map .round) s = .next t ∧
      t.v = valuesAfter s.w s.v n ∧ t.h = s.h ∧ t.w = s.w := by
  induction n with
  | zero => exact ⟨s, rfl, rfl, rfl, rfl⟩
  | succ n ih =>
    obtain ⟨t, hrun, hv, hh, hw⟩ := ih (by omega)
    have hn' : n < 80 := by omega
    refine ⟨completed { t with v := roundStep ⟨n, hn'⟩ t.v t.w[n] }, ?_, ?_, hh, hw⟩
    · rw [List.range_succ, List.map_append, runCommands_append hrun]
      exact runCommands_cons (execRound_of_lt t hn')
    · rw [valuesAfter_succ s.w s.v n hn', ← hv, ← hw]
      rfl

/-- Settles O16: both ways V ends at the 80 rounds of H. -/
theorem eightyRoundCommandsLeaveTheWorkingValuesOfCompress :
    Obligations.EightyRoundCommandsLeaveTheWorkingValuesOfCompress := by
  intro s hvh
  obtain ⟨t, hrun, hv, hh, hw⟩ := runCommands_rounds s (le_refl 80)
  refine ⟨t, _, hrun, execCompress_eq s, ?_, hh, hw⟩
  rw [hv, valuesAfter_eighty, hvh]
  rfl

end Sys2Proof.Machine
end

section
/-! NOP, CLEAR, INIT, BLOCK, FINAL and HASH, one by one (44_digest.md R181 to R186). -/

namespace Sys2Proof.Machine

/-- Settles O8: NOP has no writes of its own. -/
theorem nopDoesNothingButComplete : Obligations.NopDoesNothingButComplete :=
  ⟨by decide, fun _ => rfl⟩

theorem execClear_eq (s : State) : execClear s = .next (completed { s with
    msgLen := if s.inplace then s.origLen else s.msgLen
    inplace := false
    phase := .empty
    blkIdx := 0 }) := rfl

/-- Settles O9: CLEAR has no check. -/
theorem clearReturnsToEmpty : Obligations.ClearReturnsToEmpty :=
  ⟨by decide, execClear_eq⟩

/-! The ends of INIT, BLOCK, FINAL and HASH (R183 to R186, 60_exceptions.md R211) -/

section
variable {s : State}

theorem execInit_of_padded (hp : s.phase = .padded) :
    execInit s = .next (completed { s with h := iv, blkIdx := 0, phase := .processing }) := by
  rw [execInit, if_neg (not_not.2 hp), finish_ok]
  rfl

theorem execInit_of_not_padded (hp : s.phase ≠ .padded) : execInit s = .next (completedWith .sequence s) := by
  rw [execInit, if_pos hp, finish_error, State.fail_eq_completedWith]

theorem execBlock_of_block_left (hp : s.phase = .processing) (hi : s.blkIdx.toNat < s.msgLen.toNat / 64) :
    execBlock s = .next (completed (s.advanceWith (hashBlock s.h (s.memRead (64 * s.blkIdx.toNat) 64)))) := by
  rw [execBlock, if_neg (not_not.2 hp), if_neg (not_le.2 hi), finish_ok]
  rfl

theorem execBlock_of_no_block_left (h : s.phase ≠ .processing ∨ s.msgLen.toNat / 64 ≤ s.blkIdx.toNat) :
    execBlock s = .next (completedWith .sequence s) := by
  rw [execBlock, ← ite_or, if_pos h, finish_error, State.fail_eq_completedWith]

theorem execFinal_of_all_blocks_done (hp : s.phase = .processing) (hi : s.blkIdx.toNat = s.msgLen.toNat / 64) :
    execFinal s = .next (completed { s with dg := s.h, phase := .finalized }) := by
  rw [execFinal, if_neg (not_not.2 hp), if_neg (not_not.2 hi), finish_ok]
  rfl

theorem execFinal_of_not_all_blocks_done (h : s.phase ≠ .processing ∨ s.blkIdx.toNat ≠ s.msgLen.toNat / 64) :
    execFinal s = .next (completedWith .sequence s) := by
  rw [execFinal, ← ite_or, if_pos h, finish_error, State.fail_eq_completedWith]

theorem execHash_of_inplace (hi : s.inplace = true) : execHash s = .next (completedWith .sequence s) := by
  rw [execHash, if_pos hi, finish_error, State.fail_eq_completedWith]

theorem execHash_of_msgLen_gt (hi : s.inplace = false) (hr : s.params.msgMemBytes < s.msgLen.toNat) :
    execHash s = .next (completedWith .range s) := by
  rw [execHash, if_neg (Bool.eq_false_iff.1 hi), if_pos hr, finish_error, State.fail_eq_completedWith]

end

/-- Settles O10: the phase decides between INIT's two ends. -/
theorem initLoadsTheIvInPaddedOnly : Obligations.InitLoadsTheIvInPaddedOnly :=
  ⟨by decide, fun _ => ⟨execInit_of_padded, execInit_of_not_padded⟩⟩

/-- Settles O11: `hashBlock` is the schedule of the block and its compression. -/
theorem blockProcessesTheNextBlock : Obligations.BlockProcessesTheNextBlock :=
  ⟨by decide, fun _ => ⟨execBlock_of_block_left, execBlock_of_no_block_left⟩⟩

/-- Settles O12: the phase and the block index decide between FINAL's two ends. -/
theorem finalCopiesTheStateIntoTheDigest : Obligations.FinalCopiesTheStateIntoTheDigest :=
  ⟨by decide, fun _ => ⟨execFinal_of_all_blocks_done, execFinal_of_not_all_blocks_done⟩⟩

/-- What `memRead` reads depends on the message memory and the number of resets only. -/
theorem State.memRead_of_same_memory {s t : State} (hm : t.msgMem = s.msgMem) (hr : t.resets = s.resets) (a n : Nat) :
    t.memRead a n = s.memRead a n :=
  State.memRead_congr fun _ _ => State.msgByte_congr hm hr _

theorem State.memRead_complete (s : State) (a n : Nat) : s.complete.memRead a n = s.memRead a n :=
  State.memRead_of_same_memory rfl rfl a n

theorem State.memRead_zero (s : State) (n : Nat) : s.memRead 0 n = (List.range n).map s.msgByte := by
  simp only [State.memRead, Nat.zero_add]

/-- Settles O20: the two checks in their order, then the digest pass over the message. -/
theorem hashDigestsTheMessage : Obligations.HashDigestsTheMessage := by
  refine ⟨by decide, fun s => ⟨execHash_of_inplace, execHash_of_msgLen_gt, fun hi hm => ?_⟩⟩
  rw [execHash_completes hi hm, State.memRead_zero, blockCount_eq]
  rfl

/-! CLEAR after PAD (R182, 41_padding.md R152) -/

/-- CLEAR with a padded form in place gives MSG_LEN back and leaves the message memory. -/
theorem execClear_of_inplace {s : State} (hi : s.inplace = true) : ∃ u : State, execClear s = .next u ∧
    u.msgLen = s.origLen ∧ u.phase = .empty ∧ u.inplace = false ∧ u.blkIdx = 0 ∧ u.params = s.params ∧
    ∀ a, u.msgByte a = s.msgByte a :=
  ⟨_, execClear_eq s, if_pos hi, rfl, rfl, rfl, rfl, State.msgByte_congr rfl rfl⟩

/-- A second PAD lays the same bytes over the ones the first has written. -/
theorem State.msgByte_padInPlace_again {s u : State} (hlen : u.msgLen = s.msgLen)
    (hbyte : ∀ a, u.msgByte a = s.padInPlace.msgByte a) (a : Nat) :
    u.padInPlace.msgByte a = s.padInPlace.msgByte a := by
  rw [State.msgByte_padInPlace u, hlen, hbyte, State.msgByte_padInPlace]
  split <;> rfl

/-- Settles O19: CLEAR leaves the message memory and gives MSG_LEN back, so the second PAD starts like the first. -/
theorem clearUndoesPadAndPadRepeats : Obligations.ClearUndoesPadAndPadRepeats := by
  intro s wf hp hc
  obtain ⟨u, hclear, hlen, hphase, hinplace, hidx, hparams, hbyte⟩ :=
    execClear_of_inplace (s := s.padInPlace.complete) s.padInPlace_inplace
  rw [State.complete_origLen, State.padInPlace_origLen] at hlen
  rw [State.complete_params, State.padInPlace_params] at hparams
  simp only [State.msgByte_complete] at hbyte
  have hagain := execPad_of_paddedLength_le hphase (by rwa [hlen, hparams])
  obtain ⟨-, -, -, hmessage⟩ := s.padInPlace_pieces
  refine ⟨_, u, _, execPad_of_paddedLength_le hp hc, hclear, hagain, hlen, hphase, hinplace, hidx,
    fun a ha => (hbyte a).trans (hmessage a (.inl ha)), fun a => ?_, ?_, ?_, ?_⟩
  · simp only [State.msgByte_complete, State.msgByte_padInPlace_again hlen hbyte]
  · simp only [State.complete_msgLen, State.padInPlace_msgLen, hlen]
  · simp only [State.complete_origLen, State.padInPlace_origLen, hlen]
  · simp only [State.complete_phase, State.padInPlace_phase]

end Sys2Proof.Machine
end

section
/-! The digest pass, in one command and step by step (44_digest.md R180, R183 to R186, 70_reset_and_hazards.md R244). -/

namespace Sys2Proof.Machine

theorem digestPass_eq_hashBlocks (m : List Byte) : digestPass m = hashBlocks ((m.length + 8) / 64) iv (padBytes m) := by
  rw [digestPass, blockCount_eq, Nat.add_sub_cancel]

/-- The padded form is a whole number of blocks (R151). -/
theorem padBytes_length_div (m : List Byte) : (padBytes m).length / 64 = (m.length + 8) / 64 + 1 := by
  rw [padBytes_length, ← blockCount_eq, blockCount]

/-- Settles O28: the pass is the compression of the last padded block into the chain over the blocks before it
(`hashBlocks_eq`). -/
theorem digestPassLoopsOverThePaddedBlocks : Obligations.DigestPassLoopsOverThePaddedBlocks := by
  intro m q
  simp only [padBytes_length_div, Nat.add_sub_cancel]
  intro h0 hq
  have hpass := hashBlocks_eq ((m.length + 8) / 64) (padBytes m) q hq
  rw [h0, ← digestPass_eq_hashBlocks] at hpass
  have hh : (digestPass m).h = q ((m.length + 8) / 64 + 1) := by rw [hpass, hashBlock_h, hq _ (Nat.lt_succ_self _)]
  refine ⟨blockCount_eq _, hh, ?_, ?_, ?_, sha1_length m⟩
  · rw [hpass, hashBlock_w]
  · rw [hpass, hashBlock_v]
  · rw [sha1, hh, ser]

/-! The commands BLOCK, n + 1 times (R184) -/

theorem hashBlocks_zero (h : Quint) (p : List Byte) : hashBlocks 0 h p = hashBlock h (p.take 64) := rfl

theorem hashBlocks_succ (n : Nat) (h : Quint) (p : List Byte) :
    hashBlocks (n + 1) h p = hashBlocks n (hashBlock h (p.take 64)).h (p.drop 64) := rfl

/-- The state after the next n + 1 blocks: R180's loop over them, and BLK_IDX so much further. -/
def State.afterBlocks (n : Nat) (s : State) : State :=
  completed { s.advanceWith (hashBlocks n s.h (s.memRead (64 * s.blkIdx.toNat) (64 * (n + 1)))) with
    blkIdx := s.blkIdx + BitVec.ofNat 32 (n + 1) }

section
variable {s : State}

theorem execBlock_eq_afterBlocks (hp : s.phase = .processing) (hi : s.blkIdx.toNat < s.msgLen.toNat / 64) :
    execBlock s = .next (s.afterBlocks 0) := by
  rw [execBlock_of_block_left hp hi, State.afterBlocks, hashBlocks_zero, State.memRead_take s _ 64 0]
  rfl

theorem State.afterBlocks_blkIdx_toNat {n : Nat} (hi : s.blkIdx.toNat + (n + 1) ≤ s.msgLen.toNat / 64) :
    (s.afterBlocks n).blkIdx.toNat = s.blkIdx.toNat + (n + 1) := by
  have hlen := s.msgLen.isLt
  change (s.blkIdx + BitVec.ofNat 32 (n + 1)).toNat = _
  rw [BitVec.toNat_add, BitVec.toNat_ofNat]
  omega

/-- R180's loop over n + 2 blocks of the memory is its first block and the loop over the others. -/
theorem State.hashBlocks_memRead_succ (h : Quint) (a n : Nat) :
    hashBlocks (n + 1) h (s.memRead a (64 * (n + 1 + 1))) =
      hashBlocks n (hashBlock h (s.memRead a 64)).h (s.memRead (a + 64) (64 * (n + 1))) := by
  rw [hashBlocks_succ, Nat.mul_succ 64 (n + 1), Nat.add_comm _ 64, State.memRead_take, State.memRead_drop]

theorem State.memRead_afterBlocks (n a k : Nat) : (s.afterBlocks n).memRead a k = s.memRead a k :=
  State.memRead_of_same_memory rfl rfl a k

/-- One block and then n + 1 more are n + 2 blocks. -/
theorem State.afterBlocks_succ {n : Nat} (hi : s.blkIdx.toNat < s.msgLen.toNat / 64) :
    (s.afterBlocks 0).afterBlocks n = s.afterBlocks (n + 1) := by
  have hidx : (s.afterBlocks 0).blkIdx + BitVec.ofNat 32 (n + 1) = s.blkIdx + BitVec.ofNat 32 (n + 1 + 1) := by
    rw [Nat.add_comm (n + 1) 1, BitVec.ofNat_add 1 (n + 1), ← BitVec.add_assoc]
    rfl
  have hh : (s.afterBlocks 0).h = (hashBlock s.h (s.memRead (64 * s.blkIdx.toNat) 64)).h :=
    congrArg (fun b => (hashBlock s.h b).h) (s.memRead_take _ 64 0)
  have hloop : hashBlocks n (s.afterBlocks 0).h
      ((s.afterBlocks 0).memRead (64 * (s.afterBlocks 0).blkIdx.toNat) (64 * (n + 1))) =
      hashBlocks (n + 1) s.h (s.memRead (64 * s.blkIdx.toNat) (64 * (n + 1 + 1))) := by
    rw [State.hashBlocks_memRead_succ, State.memRead_afterBlocks, State.afterBlocks_blkIdx_toNat hi, hh]
    rfl
  generalize ht : s.afterBlocks 0 = t at hloop hidx
  rw [State.afterBlocks, State.afterBlocks, hidx, hloop, ← ht]
  rfl

/-- BLOCK n + 1 times, while so many blocks are left (R184). -/
theorem runCommands_blocks {n : Nat} (hp : s.phase = .processing)
    (hi : s.blkIdx.toNat + (n + 1) ≤ s.msgLen.toNat / 64) :
    runCommands (List.replicate (n + 1) .block) s = .next (s.afterBlocks n) := by
  induction n generalizing s with
  | zero => exact runCommands_cons (execBlock_eq_afterBlocks hp hi)
  | succ n ih =>
    have hlt : s.blkIdx.toNat < s.msgLen.toNat / 64 := by omega
    have hleft : (s.afterBlocks 0).blkIdx.toNat + (n + 1) ≤ s.msgLen.toNat / 64 := by
      rw [State.afterBlocks_blkIdx_toNat hlt]; omega
    rw [List.replicate_succ, runCommands_cons (i := .block) (execBlock_eq_afterBlocks hp hlt),
      ih (s := s.afterBlocks 0) hp hleft, State.afterBlocks_succ hlt]

/-! PAD, INIT, every BLOCK, FINAL (R244) -/

variable (wf : s.params.WellFormed) (hp : s.phase = .empty) (hc : paddedLength s.msgLen.toNat ≤ s.params.msgMemBytes)
include wf hp hc

/-- After PAD and INIT the message memory holds the padded message, and its block 0 is the next one. -/
theorem runCommands_pad_init :
    ∃ t : State, runCommands [.pad, .init] s = .next t ∧ t.phase = .processing ∧ t.h = iv ∧ t.blkIdx = 0 ∧
      t.msgLen.toNat = paddedLength s.msgLen.toNat ∧ t.err = s.err ∧
      t.memRead 0 (paddedLength s.msgLen.toNat) = padBytes (s.memRead 0 s.msgLen.toNat) := by
  have hpad := execPad_of_paddedLength_le hp hc
  have hphase : s.padInPlace.complete.phase = .padded := s.padInPlace_phase
  have hlen : s.padInPlace.complete.msgLen.toNat = paddedLength s.msgLen.toNat := by
    rw [State.complete_msgLen, State.padInPlace_msgLen_toNat wf hc]
  have herr : s.padInPlace.complete.err = s.err := s.padInPlace_err
  have hbytes := s.padInPlace.memRead_complete 0 (paddedLength s.msgLen.toNat)
  rw [s.memRead_padInPlace] at hbytes
  generalize s.padInPlace.complete = t at hpad hphase hlen herr hbytes
  have hinit := execInit_of_padded hphase
  exact ⟨_, (runCommands_cons (i := .pad) hpad).trans (runCommands_cons (i := .init) hinit), rfl, rfl, rfl, hlen, herr,
    (State.memRead_of_same_memory rfl rfl 0 _).trans hbytes⟩

/-- The step-by-step path ends with the digest pass of the message in the registers. -/
theorem runCommands_stepPath :
    ∃ t : State, runCommands (stepPath ((s.msgLen.toNat + 8) / 64 + 1)) s = .next t ∧
      t.h = (digestPass (s.memRead 0 s.msgLen.toNat)).h ∧ t.v = (digestPass (s.memRead 0 s.msgLen.toNat)).v ∧
      t.w = (digestPass (s.memRead 0 s.msgLen.toNat)).w ∧ t.dg = t.h ∧
      t.blkIdx = BitVec.ofNat 32 (blockCount s.msgLen.toNat) ∧ t.phase = .finalized ∧ t.err = s.err := by
  obtain ⟨t, hstart, hphase, hh, hidx, hlen, herr, hbytes⟩ := runCommands_pad_init wf hp hc
  set n := (s.msgLen.toNat + 8) / 64
  have hall : t.blkIdx.toNat + (n + 1) = t.msgLen.toNat / 64 := by
    rw [hidx, hlen, paddedLength_eq, Nat.mul_div_cancel_left _ (by decide)]
    exact Nat.zero_add _
  have hpass : hashBlocks n t.h (t.memRead (64 * t.blkIdx.toNat) (64 * (n + 1))) =
      digestPass (s.memRead 0 s.msgLen.toNat) := by
    rw [digestPass_eq_hashBlocks, State.memRead_length, ← hbytes, paddedLength_eq, hh, hidx]
    rfl
  have hblocks := runCommands_blocks hphase hall.le
  have hfinal := execFinal_of_all_blocks_done (s := t.afterBlocks n) hphase
    ((State.afterBlocks_blkIdx_toNat hall.le).trans hall)
  refine ⟨_, ((runCommands_append hstart).trans (runCommands_append hblocks)).trans
    (runCommands_cons (i := .final) hfinal), congrArg BlockResult.h hpass, congrArg BlockResult.v hpass,
    congrArg BlockResult.w hpass, rfl, ?_, rfl, herr⟩
  change t.blkIdx + BitVec.ofNat 32 (n + 1) = _
  rw [hidx, blockCount_eq]
  exact BitVec.zero_add _

end

/-- Settles O22: both ways end with the digest pass of the message in the registers. -/
theorem hashMatchesTheStepByStepPath : Obligations.HashMatchesTheStepByStepPath := by
  intro s wf hp hi hc
  have hm : s.msgLen.toNat ≤ s.params.msgMemBytes := by rw [paddedLength] at hc; omega
  obtain ⟨t, hrun, hh, hv, hw, hdg, hidx, hphase, herr⟩ := runCommands_stepPath wf hp hc
  exact ⟨t, _, hrun, execHash_completes hi hm, hdg.trans hh, hh, hv, hw, hidx, hphase, rfl, herr, rfl⟩

end Sys2Proof.Machine
end

section
/-! HMAC: the key derivation and the command's three ends (45_hmac.md R200 to R202). -/

namespace Sys2Proof.Machine

theorem State.keyRead_zero (s : State) (n : Nat) : s.keyRead 0 n = (List.range n).map s.keyByte := by
  simp only [State.keyRead, Nat.zero_add]

/-- R201's case on the length of the reduced key is idle: a key of 64 bytes takes no zero bytes. -/
theorem hmacKey_eq_append (key : List Byte) :
    hmacKey key = reduceKey key ++ List.replicate (64 - (reduceKey key).length) 0x00#8 := by
  rw [hmacKey]
  split
  · rfl
  next h => rw [Nat.sub_eq_zero_of_le (not_lt.1 h), List.replicate_zero, List.append_nil]

section
variable {s : State}

theorem execHmac_of_inplace (hi : s.inplace = true) : execHmac s = .next (completedWith .sequence s) := by
  rw [execHmac, if_pos hi, finish_error, State.fail_eq_completedWith]

theorem execHmac_of_length_gt (hi : s.inplace = false)
    (hr : s.params.msgMemBytes < s.msgLen.toNat ∨ s.params.keyMemBytes < s.keyLen.toNat) :
    execHmac s = .next (completedWith .range s) := by
  rw [execHmac, if_neg (Bool.eq_false_iff.1 hi), if_pos hr, finish_error, State.fail_eq_completedWith]

end

/-- Settles O21: the two checks in their order, then the outer pass under the derived key. -/
theorem hmacComputesTheTag : Obligations.HmacComputesTheTag := by
  refine ⟨by decide, fun s => ⟨execHmac_of_inplace, execHmac_of_length_gt, fun hi hm hk => ?_⟩⟩
  rw [execHmac_completes hi hm hk, State.hmacPass, outerInput, innerInput, hmacKey_eq_append, reduceKey,
    State.keyRead_zero, State.memRead_zero, List.length_map, List.length_range]
  rfl

end Sys2Proof.Machine
end

section
/-! Every command completes, all or nothing (00_scope.md R15, 60_exceptions.md R214), and what alone can stop a step
(60_exceptions.md R220). A command's checks and writes read neither ERR nor ERR_CODE, so it ends alike, before its
completion state, on `s` and on `s` with the error cleared. -/

namespace Sys2Proof.Machine

/-- ERR and ERR_CODE cleared, all else as in `s`. -/
def State.clearError (s : State) : State := { s with err := false, errCode := .none }

/-- ERR and ERR_CODE of `s`, all else as in `t`. -/
def State.withErrorOf (t s : State) : State := { t with err := s.err, errCode := s.errCode }

/-- The codes that the checks of commands raise (R210). -/
def commandErrors : List ErrCode := [.sequence, .range, .capacity]

/-- What R214 says of a command: `onS` is its outcome on `s`, `onCleared` its outcome on `s.clearError`. -/
def AllOrNothing (s : State) (onS onCleared : Result) : Prop :=
  ∃ t u : State, onS = .next t ∧ onCleared = .next u ∧ t.busy = false ∧ t.done = true ∧ t.pend = none ∧
    ((u.err = false ∧ t = u.withErrorOf s) ∨
      (u.err = true ∧ u.errCode ∈ commandErrors ∧ t = completedWith u.errCode s))

/-- Two ends of a command before its completion state, on `s` and on `s.clearError`: the same error, or the same writes,
none of them of ERR or ERR_CODE. -/
inductive EndsAlike (s : State) : Except ErrCode State → Except ErrCode State → Prop
  | ok {t u : State} (hu : u.err = false) (ht : t = u.withErrorOf s) : EndsAlike s (.ok t) (.ok u)
  | error {c : ErrCode} (hc : c ∈ commandErrors) : EndsAlike s (.error c) (.error c)

/-- One check of a command: under the same condition, only what follows it has to end alike. -/
theorem EndsAlike.check {s : State} {p : Prop} [Decidable p] {c : ErrCode} {r r' : Except ErrCode State}
    (hc : c ∈ commandErrors) (h : EndsAlike s r r') :
    EndsAlike s (if p then .error c else r) (if p then .error c else r') := by
  split
  · exact .error hc
  · exact h

/-- The completion state on ends that are alike (R214). -/
theorem EndsAlike.allOrNothing {s : State} {r r' : Except ErrCode State} (h : EndsAlike s r r') :
    AllOrNothing s (finish s r) (finish s.clearError r') := by
  cases h with
  | ok hu ht =>
    subst ht
    exact ⟨_, _, rfl, rfl, rfl, rfl, rfl, .inl ⟨hu, rfl⟩⟩
  | error hc => exact ⟨_, _, rfl, rfl, rfl, rfl, rfl, .inr ⟨rfl, hc, rfl⟩⟩

/-- The completion state of a command without checks. -/
theorem AllOrNothing.complete {s t u : State} (hu : u.err = false) (ht : t = u.withErrorOf s) :
    AllOrNothing s (.next t.complete) (.next u.complete) :=
  EndsAlike.allOrNothing (.ok hu ht)

/-- Every command: its checks in order, then its writes. -/
theorem exec_allOrNothing (i : Instr) (s : State) : AllOrNothing s (exec i s) (exec i s.clearError) := by
  have hseq : ErrCode.sequence ∈ commandErrors := by decide
  have hran : ErrCode.range ∈ commandErrors := by decide
  have hcap : ErrCode.capacity ∈ commandErrors := by decide
  cases i with
  | nop => exact .complete rfl rfl
  | clear => exact .complete rfl rfl
  | pad => exact EndsAlike.allOrNothing <| .check hseq <| .check hran <| .check hcap <| .ok rfl rfl
  | init => exact EndsAlike.allOrNothing <| .check hseq <| .ok rfl rfl
  | block => exact EndsAlike.allOrNothing <| .check hseq <| .check hseq <| .ok rfl rfl
  | final => exact EndsAlike.allOrNothing <| .check hseq <| .check hseq <| .ok rfl rfl
  | expand => exact EndsAlike.allOrNothing <| .check hran <| .ok rfl rfl
  | round ridx =>
    refine EndsAlike.allOrNothing ?_
    split
    · exact .ok rfl rfl
    · exact .error hran
  | compress => exact .complete rfl rfl
  | hash => exact EndsAlike.allOrNothing <| .check hseq <| .check hran <| .ok rfl rfl
  | hmac => exact EndsAlike.allOrNothing <| .check hseq <| .check hran <| .ok rfl rfl

/-- Settles O29: a command ends alike whatever ERR was, so its outcome with ERR cleared tells failure from success. -/
theorem everyCommandCompletesAllOrNothing : Obligations.EveryCommandCompletesAllOrNothing := exec_allOrNothing

/-! What can stop a step -/

/-- Every command word is performed to a next state, legal or not (30_encoding.md R114, R214). -/
theorem performWord_answers (word : Word) (s : State) : ∃ t, performWord word s = .next t := by
  unfold performWord
  split
  · next i _ =>
    obtain ⟨t, _, ht, _⟩ := exec_allOrNothing i s
    exact ⟨t, ht⟩
  · exact ⟨_, rfl⟩

/-- The engine never stops: while BUSY = 1, PEND holds a word (10_state.md R54, log 6). -/
theorem State.Inv.engineStep_answers {s : State} (h : s.Inv) : ∃ t, engineStep s = .next t := by
  unfold engineStep
  cases hb : s.busy with
  | false => exact ⟨s, rfl⟩
  | true =>
    rw [h.busy_pend_cmd hb]
    exact performWord_answers s.cmd s

/-- An access stops only at a misaligned offset or beyond the span (20_memory.md R80, R81). -/
theorem access_answers_or (s : State) (off : Word) (act : Loc → State) :
    (∃ t, access s off act = .next t) ∨ off.toNat % 4 ≠ 0 ∨ spanBytes s.params ≤ off.toNat := by
  rcases access_cases s off act with ⟨h4, _⟩ | ⟨_, hspan, _⟩ | ⟨_, _, e⟩
  · exact .inr (.inl h4)
  · exact .inr (.inr hspan)
  · exact .inl ⟨_, e⟩

/-- The host's turn stops only on its next operation, a sub-word access or one outside R80 and R81. -/
theorem step_host_answers_or {s : State} (hT : s.turn = some .host) : (∃ t, step s = .next t) ∨
    (∃ off, HostOpNext s (.subword off)) ∨
    (∃ off x, (HostOpNext s (.wr off x) ∨ HostOpNext s (.rd off)) ∧
      (off.toNat % 4 ≠ 0 ∨ spanBytes s.params ≤ off.toNat)) := by
  cases hs : s.script with
  | nil => exact .inl ⟨s.dropTurn, by rw [step_host hT, hostStep, State.dropTurn_script, hs]⟩
  | cons op rest =>
    have hop : HostOpNext s op := ⟨hT, congrArg List.head? hs⟩
    cases op with
    | wr off x =>
      rw [hop.step_wr]
      exact (access_answers_or _ off _).imp id fun hbad => .inr ⟨off, x, .inl hop, hbad⟩
    | rd off =>
      rw [hop.step_rd]
      exact (access_answers_or _ off _).imp id fun hbad => .inr ⟨off, 0, .inr hop, hbad⟩
    | wait => exact .inl ⟨_, hop.step_wait⟩
    | subword off => exact .inr (.inl ⟨off, hop⟩)

/-- Settles O57: of the turns only the host's can stop, and only by its own access. -/
theorem onlyTheHostsOwnAccessCanStopAStep : Obligations.OnlyTheHostsOwnAccessCanStopAStep := by
  intro s h
  cases hT : s.turn with
  | none => exact .inl ⟨s, (idleBlockKeepsItsState.2 s hT).1⟩
  | some turn =>
    cases turn with
    | host => exact step_host_answers_or hT
    | engine =>
      rw [step_engine hT]
      exact .inl (State.Inv.engineStep_answers (h.of_rest rfl))
    | reset => exact .inl ⟨s.dropTurn.assertReset, by rw [step, hT]⟩

end Sys2Proof.Machine
end

section
/-! Reset, what stood in W and V before BLOCK and COMPRESS, and how long a command can stay pending
(70_reset_and_hazards.md). -/

namespace Sys2Proof.Machine

/-! What stood in W and V (R251) -/

/-- Settles O34: BLOCK's end (`execBlock_of_block_left`) and COMPRESS's (`execCompress_eq`) overwrite these files and are
computed from the others. -/
theorem blockIgnoresOldWAndVAndCompressIgnoresOldV : Obligations.BlockIgnoresOldWAndVAndCompressIgnoresOldV := by
  intro s v' w'
  refine ⟨fun hp hi => ?_, ?_⟩
  · calc
      exec .block { s with v := v', w := w' } = .next (completed (s.advanceWith
        (hashBlock s.h (s.memRead (64 * s.blkIdx.toNat) 64)))) :=
          execBlock_of_block_left (s := { s with v := v', w := w' }) hp hi
      _ = exec .block s := (execBlock_of_block_left hp hi).symm
  · calc
      exec .compress { s with v := v' } = .next (completed { s with h := s.h.add (rounds s.w s.h), v := rounds s.w s.h }) :=
        execCompress_eq { s with v := v' }
      _ = exec .compress s := (execCompress_eq s).symm

/-! A pending command comes to an end (R243, R255) -/

/-- Every performance ends with BUSY = 0 (60_exceptions.md R214). -/
theorem exec_busy {i : Instr} {s t : State} (h : exec i s = .next t) : t.busy = false := by
  obtain ⟨u, _, hu, _, hb, _⟩ := exec_allOrNothing i s
  cases h.symm.trans hu
  exact hb

/-- The engine's turn leaves nothing pending (20_memory.md R95). -/
theorem engineStep_busy {s t : State} (h : engineStep s = .next t) : t.busy = false := by
  rcases engineStep_cases h with ⟨hb, rfl⟩ | ⟨_, _, _, _, _, he⟩ | ⟨_, _, _, _, _, rfl⟩
  · exact hb
  · exact exec_busy he
  · rfl

/-- No host write touches the schedule of turns. -/
theorem State.writeLoc_schedule (s : State) (l : Loc) (x : Word) : (s.writeLoc l x).schedule = s.schedule := by
  rcases s.writeLoc_cases l x with ⟨c, e⟩ | ⟨_, _, e⟩ | ⟨_, e⟩ | e <;> rw [e] <;> rfl

/-- No host read touches the schedule of turns. -/
theorem State.hostRead_schedule (s : State) (l : Loc) : (s.hostRead l).schedule = s.schedule := by
  obtain ⟨x, d, e⟩ := s.hostRead_eq l
  rw [e]

theorem State.poll_schedule (s : State) : s.poll.schedule = s.schedule := by
  rw [State.poll_eq]
  split <;> rfl

/-- The host's operations leave the schedule of turns alone. -/
theorem hostStep_schedule {s t : State} (h : hostStep s = .next t) : t.schedule = s.schedule := by
  rcases hostStep_cases h with ⟨_, rfl⟩ | ⟨_, _, _, _, _, _, rfl⟩ | ⟨_, _, _, _, _, rfl⟩ | ⟨_, _, rfl⟩
  · rfl
  · exact s.writeLoc_schedule _ _
  · exact s.hostRead_schedule _
  · exact s.poll_schedule

/-- While a command is pending, the host moves only where the schedule says so (R255, log 4). -/
theorem State.schedule_of_turn_host {s : State} (hT : s.turn = some .host) (hb : s.busy = true) :
    s.schedule = .host :: s.schedule.tail := by
  unfold State.turn at hT
  split at hT
  · next turn rest hs =>
    cases hT
    rw [hs, List.tail_cons]
  · simp [hb] at hT

/-- A step from a pending command that leaves one pending uses up a turn of the schedule. -/
theorem step_while_pending {s t : State} (hb : s.busy = true) (h : step s = .next t) :
    t.busy = false ∨ s.schedule = .host :: t.schedule := by
  rcases step_cases h with ⟨hT, rfl⟩ | ⟨hT, he⟩ | ⟨_, he⟩ | ⟨_, rfl⟩
  · exact .inl (State.busy_of_turn_none hT)
  · refine .inr ?_
    rw [hostStep_schedule he]
    exact State.schedule_of_turn_host hT hb
  · exact .inl (engineStep_busy he)
  · exact .inl rfl

/-- After `n` steps nothing is pending, or the run has stopped within them. -/
def SettledAfter (n : Nat) (s : State) : Prop :=
  (∃ t, runSteps n s = .next t ∧ t.busy = false) ∨ ∀ t, runSteps n s ≠ .next t

theorem SettledAfter.zero {s : State} (hb : s.busy = false) : SettledAfter 0 s := .inl ⟨s, rfl, hb⟩

/-- Settled after `n + 1` steps: after the first one, if there is one, settled after `n`. -/
theorem SettledAfter.succ {n : Nat} {s : State} (h : ∀ t, step s = .next t → SettledAfter n t) :
    SettledAfter (n + 1) s := by
  unfold SettledAfter
  rw [runSteps]
  cases he : step s with
  | next t => exact h t he
  | fault f => exact .inr fun _ => nofun
  | refused r => exact .inr fun _ => nofun

/-- By induction on the schedule: each step that leaves the command pending uses up one of its turns. -/
theorem settledAfter_of_busy {s : State} (hb : s.busy = true) : ∃ n, n ≤ s.schedule.length + 1 ∧ SettledAfter n s := by
  induction hs : s.schedule generalizing s with
  | nil =>
    refine ⟨1, le_rfl, .succ fun t ht => .zero ?_⟩
    exact (step_while_pending hb ht).resolve_right (by simp [hs])
  | cons turn rest ih =>
    by_cases hstill : ∃ t, step s = .next t ∧ t.busy = true
    · obtain ⟨t, ht, htb⟩ := hstill
      have hrest : s.schedule = .host :: t.schedule := (step_while_pending hb ht).resolve_left (by simp [htb])
      obtain ⟨n, hn, hsettled⟩ := ih htb (List.cons.inj (hrest.symm.trans hs)).2
      refine ⟨n + 1, Nat.succ_le_succ hn, .succ fun u hu => ?_⟩
      cases ht.symm.trans hu
      exact hsettled
    · refine ⟨1, Nat.le_add_left 1 _, .succ fun t ht => .zero ?_⟩
      exact Bool.eq_false_iff.2 fun htb => hstill ⟨t, ht, htb⟩

/-- Settles O58: the command is settled before the schedule runs out, or by the step after it. The invariants are not
needed: without them the engine's turn may also stop the run. -/
theorem pendingCommandIsPerformedInBoundedSteps : Obligations.PendingCommandIsPerformedInBoundedSteps :=
  fun _ _ hb => settledAfter_of_busy hb

/-! Reset (R240, R241, R243) -/

/-- A message memory that nothing has written holds the unspecified bytes (20_memory.md R94). -/
theorem State.msgByte_of_unwritten {s : State} (hm : s.msgMem = []) (a : Nat) :
    s.msgByte a = Config.msgPowerUp s.resets a := by
  rw [State.msgByte, hm]
  rfl

/-- A key memory that nothing has written holds the unspecified bytes (R94). -/
theorem State.keyByte_of_unwritten {s : State} (hm : s.keyMem = []) (a : Nat) :
    s.keyByte a = Config.keyPowerUp s.resets a := by
  rw [State.keyByte, hm]
  rfl

/-- STATUS reads 0 after a reset (R241). -/
theorem State.assertReset_statusWord (s : State) : s.assertReset.statusWord = 0 := by
  apply BitVec.eq_of_toNat_eq
  rw [State.statusWord_toNat]
  rfl

/-- Settles O53: every register of `State.resetOf` stands in the next state, at the value of R241's table. -/
theorem resetPutsEveryRegisterAtItsResetValue : Obligations.ResetPutsEveryRegisterAtItsResetValue := by
  intro s hT
  have hstep : step s = .next s.dropTurn.assertReset := by rw [step, hT]
  exact ⟨s.dropTurn.assertReset, hstep, rfl, rfl, rfl, rfl, rfl, rfl, rfl, rfl, rfl, rfl, rfl, rfl, rfl, rfl, rfl, rfl, rfl,
    fun j hj => Vector.getElem_replicate hj, rfl, rfl, rfl, s.dropTurn.assertReset_statusWord, rfl,
    fun a => ⟨State.msgByte_of_unwritten rfl a, State.keyByte_of_unwritten rfl a⟩⟩

/-- Settles O54: the same table, after the reset numbered 0. -/
theorem resetStateHasTheResetValues : Obligations.ResetStateHasTheResetValues :=
  ⟨rfl, rfl, rfl, rfl, rfl, rfl, rfl, rfl, rfl, rfl, rfl, rfl, fun j => Vector.getElem_replicate j.isLt, rfl, rfl,
    fun a => ⟨State.msgByte_of_unwritten rfl a, State.keyByte_of_unwritten rfl a⟩⟩

end Sys2Proof.Machine
end
